-- ==== Sys2Proof/Word.lean ====
section
/-! DEFINITION. The word types of the kp-2fa TOTP core (spec/00_scope.md R5, R9, spec/10_state.md R20).
All values are unsigned bit vectors; no rule of the spec uses a signed value. -/

namespace Sys2Proof

/-- One byte: a character, a key byte, a digest byte. -/
abbrev Byte := BitVec 8

/-- `WORD`: the width of every register and of the command word (R5, R20). -/
abbrev Word := BitVec 32

/-- `TIME_WIDTH` and `COUNTER_WIDTH`: the width of `TIME` and `CTR` (R5). -/
abbrev DWord := BitVec 64

/-- A 6-bit word index of the register space (R20, R60). -/
abbrev RegIdx := BitVec 6

end Sys2Proof
end

