-- ==== Sys2Proof/Syntax.lean ====
section
/-! DEFINITION. The command set KP2FA-CMD v1 (spec/30_encoding.md R81): one constructor per row of
spec/opcode_table.json. -/

namespace Sys2Proof

/-- The eight commands. The only operand a command word carries is the character of `DEC_CHAR` (R82). -/
inductive Instr where
  /-- R185. -/
  | nop
  /-- R105. -/
  | decClr
  /-- R106: `c` is any byte. -/
  | decChar (c : Byte)
  /-- R107. -/
  | decEnd
  /-- R140. -/
  | ctrGen
  /-- R160. -/
  | digExt
  /-- R180. -/
  | generate
  /-- R186. -/
  | reset
  deriving DecidableEq, Repr

end Sys2Proof
end

