-- ==== Sys2Proof/WellFormed.lean ====
section
/-! DEFINITION. Which command words are well formed (spec/30_encoding.md R80, R81, R83).
A term of `Instr` has no ill-formed form: its one operand is a byte by type, and `DEC_CHAR` takes every byte.
What can be ill formed is the 32-bit word a host writes to `CMD`; R83 names three ways. -/

namespace Sys2Proof

/-- R80: the fields of the one command format. -/
abbrev opField (w : Word) : Byte := w.extractLsb' 24 8
/-- R80: bits 23:8, reserved. -/
abbrev rsvField (w : Word) : BitVec 16 := w.extractLsb' 8 16
/-- R80, R82: bits 7:0, the character of `DEC_CHAR`. -/
abbrev argField (w : Word) : Byte := w.extractLsb' 0 8

/-- R83, first ground: `OP` is one of the eight defined operations. -/
def opWf (w : Word) : Bool :=
  [0x00, 0x01, 0x02, 0x03, 0x10, 0x20, 0x30, 0xFF].contains (opField w)

/-- R83, second ground: `RSV` is 0. -/
def rsvWf (w : Word) : Bool := rsvField w == 0

/-- R83, third ground: `ARG` is 0 for an `OP` other than 0x02. -/
def argWf (w : Word) : Bool := opField w == 0x02 || argField w == 0

/-- A legal command word: none of R83's grounds holds. -/
def wordWf (w : Word) : Bool := opWf w && rsvWf w && argWf w

/-- A row of R81: `w` is the command when `w & mask = pattern` (the table's `match`). -/
structure OpcodeRow where
  mnemonic : String
  pattern : Word
  mask : Word
  deriving DecidableEq, Repr

/-- R81's test of a word against a row. -/
def OpcodeRow.admits (r : OpcodeRow) (w : Word) : Bool := w &&& r.mask == r.pattern

/-- The table of R81, which spec/opcode_table.json copies. -/
def opcodeRows : List OpcodeRow :=
  [⟨"NOP", 0x00000000, 0xFFFFFFFF⟩,
   ⟨"DEC_CLR", 0x01000000, 0xFFFFFFFF⟩,
   ⟨"DEC_CHAR", 0x02000000, 0xFFFFFF00⟩,
   ⟨"DEC_END", 0x03000000, 0xFFFFFFFF⟩,
   ⟨"CTR_GEN", 0x10000000, 0xFFFFFFFF⟩,
   ⟨"DIG_EXT", 0x20000000, 0xFFFFFFFF⟩,
   ⟨"GENERATE", 0x30000000, 0xFFFFFFFF⟩,
   ⟨"RESET", 0xFF000000, 0xFFFFFFFF⟩]

end Sys2Proof
end

