-- ==== Sys2Proof/Decode.lean ====
section
/-! DEFINITION. The decoder of command words, total (spec/30_encoding.md R85), and the encoder (R81). -/

namespace Sys2Proof

/-- Why a command word is illegal (R83). The hardware records the one result `ILLEGAL_CMD` for all three. -/
inductive IllegalWord where
  /-- `RSV` is not 0. -/
  | reservedBits
  /-- `OP` is no defined operation. -/
  | unknownOp
  /-- `ARG` is not 0 for an operation without an argument. -/
  | unusedArg
  deriving DecidableEq, Repr

/-- A command without an argument: `ARG` must be 0 (R85). -/
def decodeBare (i : Instr) (arg : Byte) : Except IllegalWord Instr :=
  if arg = 0 then .ok i else .error .unusedArg

/-- R85: the decoder of command words. -/
def decode (w : Word) : Except IllegalWord Instr :=
  if rsvField w ≠ 0 then .error .reservedBits
  else
    let arg := argField w
    match (opField w).toNat with
    | 0x00 => decodeBare .nop arg
    | 0x01 => decodeBare .decClr arg
    | 0x02 => .ok (.decChar arg)
    | 0x03 => decodeBare .decEnd arg
    | 0x10 => decodeBare .ctrGen arg
    | 0x20 => decodeBare .digExt arg
    | 0x30 => decodeBare .generate arg
    | 0xFF => decodeBare .reset arg
    | _ => .error .unknownOp

/-- R81: the `OP` byte of a command. -/
def Instr.op : Instr → Byte
  | .nop => 0x00
  | .decClr => 0x01
  | .decChar _ => 0x02
  | .decEnd => 0x03
  | .ctrGen => 0x10
  | .digExt => 0x20
  | .generate => 0x30
  | .reset => 0xFF

/-- R80: the `ARG` byte of a command. -/
def Instr.arg : Instr → Byte
  | .nop => 0
  | .decClr => 0
  | .decChar c => c
  | .decEnd => 0
  | .ctrGen => 0
  | .digExt => 0
  | .generate => 0
  | .reset => 0

/-- R80: the word of a command, `OP : RSV : ARG` with `RSV` = 0. -/
def encode (i : Instr) : Word := i.op ++ 0#16 ++ i.arg

/-- R81's name of a command, as spec/opcode_table.json spells it. -/
def Instr.mnemonic : Instr → String
  | .nop => "NOP"
  | .decClr => "DEC_CLR"
  | .decChar _ => "DEC_CHAR"
  | .decEnd => "DEC_END"
  | .ctrGen => "CTR_GEN"
  | .digExt => "DIG_EXT"
  | .generate => "GENERATE"
  | .reset => "RESET"

/-- The command word that a table word of `nbits` bits stands for. A command is one 32-bit register word, so it
has no byte order, and the bits above `nbits` are 0 (log 17). -/
def tableWord (nbits w : Nat) : Word := BitVec.ofNat 32 (w % 2 ^ nbits)

/-- The command the decoder reads from a table word; none where it refuses, or where a bit above bit 31 is set. -/
def decodeTableWord (nbits w : Nat) : Option Instr :=
  if w % 2 ^ nbits < 2 ^ 32 then (decode (tableWord nbits w)).toOption else none

end Sys2Proof
end

