-- ==== Sys2Proof/Config.lean ====
section
/-! DEFINITION. What is fixed for this hardware (the parameter table of spec/00_scope.md R5) and what the
spec leaves to the platform (R8, R69): the latter are opaque constants, so no proof can see a value of them. -/

namespace Sys2Proof

/-- The implementation parameters of R5, one field each. The widths are also the types of Word.lean. -/
structure Params where
  wordBits : Nat
  nregs : Nat
  timeWidth : Nat
  stepWidth : Nat
  counterWidth : Nat
  stepReset : Nat
  digitsReset : Nat
  digitsMin : Nat
  digitsMax : Nat
  algReset : Nat
  keyMaxBytes : Nat
  digestMinBytes : Nat
  digestMaxBytes : Nat
  msgBytes : Nat
  codeAsciiBytes : Nat
  /-- The ASCII codes of `ABCDEFGHIJKLMNOPQRSTUVWXYZ234567`, in order. -/
  alphabet : List Byte
  deriving DecidableEq, Repr

namespace Config

/-- R5: the values of this hardware. -/
abbrev kp2fa : Params where
  wordBits := 32
  nregs := 64
  timeWidth := 64
  stepWidth := 32
  counterWidth := 64
  stepReset := 30
  digitsReset := 6
  digitsMin := 1
  digitsMax := 10
  algReset := 0
  keyMaxBytes := 64
  digestMinBytes := 20
  digestMaxBytes := 64
  msgBytes := 8
  codeAsciiBytes := 12
  alphabet :=
    [0x41, 0x42, 0x43, 0x44, 0x45, 0x46, 0x47, 0x48, 0x49, 0x4A, 0x4B, 0x4C, 0x4D, 0x4E, 0x4F, 0x50] ++
    [0x51, 0x52, 0x53, 0x54, 0x55, 0x56, 0x57, 0x58, 0x59, 0x5A, 0x32, 0x33, 0x34, 0x35, 0x36, 0x37]

/-- R8: HMAC-SHA-1, the hash primitive at `alg` = 0, of a key and a message. Its 20-byte length is the spec's
("20 bytes for SHA-1"); its value is the platform's and is left free (R4(b); log 4). -/
opaque hmacSha1 (key msg : List Byte) : Vector Byte 20

/-- R8, R189, D16: the open parameter `HASH_ALGS`, the primitive at `alg` = 1, 2, 3 (log 4). -/
opaque hashAlgs (alg : BitVec 2) (key msg : List Byte) : List Byte

/-- R8: `hmac : Alg -> Bytes -> Bytes -> Bytes`, the hash primitive, a parameter of the model. -/
def hmac (alg : BitVec 2) (key msg : List Byte) : List Byte :=
  if alg = 0 then (hmacSha1 key msg).toList else hashAlgs alg key msg

/-- R69: where the platform puts the block in a host's address space; no rule reads it (log 13). -/
opaque blockBase : Nat

end Config
end Sys2Proof
end

