-- ==== Sys2Proof/Machine/State.lean ====
section
/-! DEFINITION. The state of the block (spec/10_state.md) as plain data, the model's own fields for the agents
outside it, the reasons a step can stop (none), and the state after reset (R44). -/

namespace Sys2Proof.Machine

/-- R217: the block has no trap and no exception, and its spec names no behaviour that stops it; every error is a
recorded result (R210). So there is no fault: nobody raises one. -/
inductive Fault where
  deriving DecidableEq, Repr

/-- The reasons a step has no meaning. -/
inductive Refusal where
  /-- Raised by an arm of `exec` for a command that has no meaning yet (safe: the run stops). No arm raises it. -/
  | notModelled (mnemonic : String)
  deriving DecidableEq, Repr

/-- The result codes of spec/60_exceptions.md R211: no other value of `STATUS.ERR` is ever held. Their numbers are
in Flags.lean. -/
inductive ResultCode where
  | ok
  | decBadchar
  | decEmpty
  | decOverflow
  | decNotOpen
  | cryptoEmptyKey
  | cryptoHashFail
  | noKey
  | cfgStepZero
  | cfgDigits
  | digestLenBad
  | illegalCmd
  deriving DecidableEq, Repr

/-- R28, `DEC_STATUS.DSTATE`: value 3 is never held. -/
inductive DState where
  | opened
  | done
  | error
  deriving DecidableEq, Repr

/-- R28: the decoder's state `dec`. `derr` is `ok` (0) unless `dstate` is `error`. -/
structure Decoder where
  dstate : DState
  peq : Bool
  nbits : BitVec 3
  acc : Byte
  derr : ResultCode
  dchar : Byte
  deriving DecidableEq, Repr

/-- R25: the fields of `CTRL`; its other bits are reserved and read 0 (R22). -/
structure Ctrl where
  emptyErr : Bool
  digits : BitVec 4
  alg : BitVec 2
  deriving DecidableEq, Repr

/-- R40, R181: an outstanding hash request. -/
structure HashRequest where
  alg : BitVec 2
  key : List Byte
  msg : List Byte
  deriving DecidableEq, Repr

/-- A point of the hash primitive that the platform has fixed: `hmac` of the request is `digest` (R8; log 3). -/
structure HashPoint where
  request : HashRequest
  digest : List Byte
  deriving DecidableEq, Repr

/-- One step of the host (R7(a), R60, R87). -/
inductive HostAccess where
  /-- `MemRead(idx, 4)`. -/
  | read (idx : RegIdx)
  /-- `MemWrite(idx, 4, w)`. -/
  | write (idx : RegIdx) (w : Word)
  /-- R87 `wait.idle`: read `STATUS` until bit 0 reads 0. Each poll is one step (log 16). -/
  | waitIdle
  deriving DecidableEq, Repr

/-- Who takes a step, and the draw it makes (R7, R67, R182, R240). -/
inductive Turn where
  /-- The host's next access. -/
  | host
  /-- The hash agent answers `OK(hmac(alg, key, msg))`. -/
  | hashOk
  /-- The hash agent answers `FAIL`. -/
  | hashFail
  /-- The platform asserts the hardware reset. -/
  | hardReset
  deriving DecidableEq, Repr

/-- The machine. The fields down to `hreq` are the block's (R21, R24 to R40); the last four are the model's own and
hold what the agents outside the block bring. -/
structure State where
  /-- `STATUS.BUSY` (R24). -/
  busy : Bool
  /-- `STATUS.CODE_VALID` (R24). -/
  codeValid : Bool
  /-- `STATUS.ERR` (R24, R211). -/
  err : ResultCode
  /-- `STATUS.ERR_CHAR` (R24). -/
  errChar : Byte
  /-- `CTRL` (R25). -/
  ctrl : Ctrl
  /-- `STEP` (R26). -/
  stepSeconds : Word
  /-- `TIME_HI` (R27). -/
  timeHi : Word
  /-- `TIME_LO` (R27). -/
  timeLo : Word
  /-- `DEC_STATUS` (R28). -/
  dec : Decoder
  /-- `KEY_LEN` (R30). -/
  keyLen : BitVec 7
  /-- `KEY` (R31). -/
  key : Vector Byte 64
  /-- `CTR_HI` (R32). -/
  ctrHi : Word
  /-- `CTR_LO` (R32). -/
  ctrLo : Word
  /-- `REMAIN` (R33). -/
  remain : Word
  /-- `DIGEST_LEN` (R34). -/
  digestLen : Byte
  /-- `DIGEST` (R35). -/
  digest : Vector Byte 64
  /-- `OFFSET` (R36). -/
  offset : BitVec 4
  /-- `TRUNC` (R37). -/
  trunc : BitVec 31
  /-- `CODE` (R38). -/
  code : Word
  /-- `ASCII`, the bytes of `CODE_ASCII0..2` (R39). -/
  ascii : Vector Byte 12
  /-- `hreq` (R40). -/
  hreq : Option HashRequest
  /-- The host's accesses not yet performed, in issue order (R66, R67; log 1). -/
  host : List HostAccess
  /-- Who takes the coming steps; when it is empty the host does (R67; log 2). -/
  turns : List Turn
  /-- The word the host's last read returned (R250; log 6). -/
  hostRead : Option Word
  /-- What the platform has fixed of the hash primitive (R8; log 3). -/
  hashPoints : List HashPoint
  deriving DecidableEq, Repr

/-- R44: the machine right after reset. -/
def State.reset : State where
  busy := false
  codeValid := false
  err := .ok
  errChar := 0
  ctrl := ⟨true, BitVec.ofNat 4 Config.kp2fa.digitsReset, BitVec.ofNat 2 Config.kp2fa.algReset⟩
  stepSeconds := BitVec.ofNat 32 Config.kp2fa.stepReset
  timeHi := 0
  timeLo := 0
  dec := ⟨.opened, false, 0, 0, .ok, 0⟩
  keyLen := 0
  key := Vector.replicate 64 0
  ctrHi := 0
  ctrLo := 0
  remain := 0
  digestLen := 0
  digest := Vector.replicate 64 0
  offset := 0
  trunc := 0
  code := 0
  ascii := Vector.replicate 12 0
  hreq := none
  host := []
  turns := []
  hostRead := none
  hashPoints := []

end Sys2Proof.Machine
end

