-- ==== Sys2Proof/Machine/Operands.lean ====
section
/-! DEFINITION. The forms in which a command or an access names its operands: the register map, byte windows,
big-endian serialisations, character classes, and the operands commands read from registers. -/

namespace Sys2Proof.Machine

/-! ### The register map (spec/10_state.md R21) -/

/-- R21: the registers by name. `reserved` stands for the indices 0x12..0x1F. -/
inductive Reg where
  | cmd
  | status
  | ctrl
  | step
  | timeHi
  | timeLo
  | decStatus
  | keyLen
  | ctrHi
  | ctrLo
  | remain
  | digestLen
  | offset
  | trunc
  | code
  | codeAscii (k : Nat)
  | reserved
  | key (k : Nat)
  | digest (k : Nat)
  deriving DecidableEq, Repr

/-- R21: the register at a word index. -/
def Reg.ofIdx (idx : RegIdx) : Reg :=
  match idx.toNat with
  | 0x00 => .cmd
  | 0x01 => .status
  | 0x02 => .ctrl
  | 0x03 => .step
  | 0x04 => .timeHi
  | 0x05 => .timeLo
  | 0x06 => .decStatus
  | 0x07 => .keyLen
  | 0x08 => .ctrHi
  | 0x09 => .ctrLo
  | 0x0A => .remain
  | 0x0B => .digestLen
  | 0x0C => .offset
  | 0x0D => .trunc
  | 0x0E => .code
  | n => if n < 0x12 then .codeAscii (n - 0x0F) else if n < 0x20 then .reserved
    else if n < 0x30 then .key (n - 0x20) else .digest (n - 0x30)

/-! ### Byte buffers and windows (spec/20_memory.md R61 to R63) -/

/-- A buffer of `n` bytes from its bytes by index. -/
def bytesOf (n : Nat) (f : Nat → Byte) : Vector Byte n :=
  ⟨((List.range n).map f).toArray, by simp⟩

/-- Byte `i` of a buffer. Past its end it reads 0; no rule reads there (log 10). -/
def byteAt {n : Nat} (v : Vector Byte n) (i : Nat) : Byte := v[i]?.getD 0

/-- R63: `BE32`. -/
def be32 (b0 b1 b2 b3 : Byte) : Word := b0 ++ b1 ++ b2 ++ b3

/-- R62: `BE8`, the 8-byte big-endian serialisation of a 64-bit value. -/
def be8 (c : DWord) : List Byte :=
  [c.extractLsb' 56 8, c.extractLsb' 48 8, c.extractLsb' 40 8, c.extractLsb' 32 8,
   c.extractLsb' 24 8, c.extractLsb' 16 8, c.extractLsb' 8 8, c.extractLsb' 0 8]

/-- R61: word `k` of a byte window. -/
def windowWord {n : Nat} (v : Vector Byte n) (k : Nat) : Word :=
  be32 (byteAt v (4 * k)) (byteAt v (4 * k + 1)) (byteAt v (4 * k + 2)) (byteAt v (4 * k + 3))

/-- R61: a host write of `w` to window word `k` sets the four bytes `4k..4k+3`. -/
def windowSet {n : Nat} (v : Vector Byte n) (k : Nat) (w : Word) : Vector Byte n :=
  (((v.setIfInBounds (4 * k) (w.extractLsb' 24 8)).setIfInBounds (4 * k + 1) (w.extractLsb' 16 8)).setIfInBounds
    (4 * k + 2) (w.extractLsb' 8 8)).setIfInBounds (4 * k + 3) (w.extractLsb' 0 8)

/-! ### Characters (spec/40_decoder.md R100 to R102) -/

/-- R101: the six ASCII whitespace bytes. -/
def isWS (c : Byte) : Bool := [0x09, 0x0A, 0x0B, 0x0C, 0x0D, 0x20].contains c

/-- The byte `=`, 0x3D (R106). -/
def padChar : Byte := 0x3D

/-- R102: `Upper`. -/
def upper (c : Byte) : Byte := if 0x61 ≤ c ∧ c ≤ 0x7A then c - 0x20 else c

/-- R100: `InAlphabet`. -/
def inAlphabet (u : Byte) : Bool := (0x41 ≤ u && u ≤ 0x5A) || (0x32 ≤ u && u ≤ 0x37)

/-- R100: `Value`, in its closed form; read only where `inAlphabet u`. -/
def alphabetValue (u : Byte) : BitVec 5 :=
  if 0x41 ≤ u then (u - 0x41).setWidth 5 else (u - 0x32 + 26).setWidth 5

/-! ### Operands of commands, read from registers (R82) -/

namespace State

/-- R27: `TIME = x[TIME_HI] : x[TIME_LO]`. -/
def time (s : State) : DWord := s.timeHi ++ s.timeLo

/-- R32: `CTR = x[CTR_HI] : x[CTR_LO]`. -/
def ctr (s : State) : DWord := s.ctrHi ++ s.ctrLo

/-- R181: the byte string `KEY[0..KEY_LEN-1]`. -/
def keyBytes (s : State) : List Byte := s.key.toList.take s.keyLen.toNat

/-- R160, R180: `CTRL.DIGITS` lies in `DIGITS_MIN..DIGITS_MAX`. -/
def digitsLegal (s : State) : Bool :=
  Config.kp2fa.digitsMin ≤ s.ctrl.digits.toNat && s.ctrl.digits.toNat ≤ Config.kp2fa.digitsMax

/-- R8: the hash primitive: a point the platform has fixed, else the opaque parameter (log 3). -/
def hmac (s : State) (q : HashRequest) : List Byte :=
  match s.hashPoints.find? (fun p => p.request == q) with
  | some p => p.digest
  | none => Config.hmac q.alg q.key q.msg

end State

/-- R160, R182: a digest length in `DIGEST_MIN_BYTES..DIGEST_MAX_BYTES`. -/
def digestLenLegal (len : Nat) : Bool :=
  Config.kp2fa.digestMinBytes ≤ len && len ≤ Config.kp2fa.digestMaxBytes

end Sys2Proof.Machine
end

