-- ==== Sys2Proof/Machine/Flags.lean ====
section
/-! DEFINITION. The status words and the result codes: every flag of the block is a field of `STATUS` or
`DEC_STATUS` (spec/10_state.md R24, R28, R42). -/

namespace Sys2Proof.Machine

/-- spec/60_exceptions.md R211: the number of a result code. -/
def ResultCode.code : ResultCode → Byte
  | .ok => 0x00
  | .decBadchar => 0x01
  | .decEmpty => 0x02
  | .decOverflow => 0x03
  | .decNotOpen => 0x04
  | .cryptoEmptyKey => 0x10
  | .cryptoHashFail => 0x11
  | .noKey => 0x12
  | .cfgStepZero => 0x20
  | .cfgDigits => 0x21
  | .digestLenBad => 0x22
  | .illegalCmd => 0x30

/-- R212: the classes of results. -/
inductive ResultClass where
  | success
  | decodeError
  | cryptoError
  | ownAddition
  deriving DecidableEq, Repr

/-- R212: the class of a result code. -/
def ResultCode.cls : ResultCode → ResultClass
  | .ok => .success
  | .decBadchar => .decodeError
  | .decEmpty => .decodeError
  | .decOverflow => .decodeError
  | .decNotOpen => .ownAddition
  | .cryptoEmptyKey => .cryptoError
  | .cryptoHashFail => .cryptoError
  | .noKey => .ownAddition
  | .cfgStepZero => .ownAddition
  | .cfgDigits => .ownAddition
  | .digestLenBad => .ownAddition
  | .illegalCmd => .ownAddition

/-- R28: the number of a decoder state. -/
def DState.code : DState → BitVec 2
  | .opened => 0
  | .done => 1
  | .error => 2

namespace State

/-- R24, R43(h): `STATUS.KEY_VALID`, the mirror of `dec.DSTATE = DONE`. -/
def keyValid (s : State) : Bool := s.dec.dstate == .done

/-- R24: the word `STATUS` reads. -/
def statusWord (s : State) : Word :=
  0#8 ++ s.errChar ++ s.err.code ++ 0#5 ++ BitVec.ofBool s.keyValid ++ BitVec.ofBool s.codeValid ++
    BitVec.ofBool s.busy

end State

/-- R28: the word `DEC_STATUS` reads. -/
def Decoder.word (d : Decoder) : Word :=
  d.dchar ++ d.derr.code ++ d.acc ++ 0#1 ++ d.nbits ++ 0#1 ++ BitVec.ofBool d.peq ++ d.dstate.code

/-- R25: the word `CTRL` reads. -/
def Ctrl.word (c : Ctrl) : Word := 0#22 ++ c.alg ++ c.digits ++ 0#3 ++ BitVec.ofBool c.emptyErr

/-- R25, R22: what a host write of `w` stores in `CTRL`; the reserved bits are dropped. -/
def Ctrl.ofWord (w : Word) : Ctrl :=
  { emptyErr := w.getLsbD 0, digits := w.extractLsb' 4 4, alg := w.extractLsb' 8 2 }

end Sys2Proof.Machine
end

