-- ==== Sys2Proof/Machine/Ops.lean ====
section
/-! DEFINITION. The shared operations: recording a result, the decoder's helpers, the counter, the digit
extraction, reset, and the register reads and writes. -/

namespace Sys2Proof.Machine

namespace State

/-! ### Recording a result. The block takes no exception (spec/60_exceptions.md R217): `raise Error` is this. -/

/-- R210: `raise Error(code, ch)` sets `STATUS.ERR` and `STATUS.ERR_CHAR`, and nothing else. -/
def raiseError (s : State) (code : ResultCode) (ch : Byte) : State := { s with err := code, errChar := ch }

/-- R210: `ok()`. -/
def recordOk (s : State) : State := s.raiseError .ok 0

/-! ### Decoder helpers (spec/40_decoder.md R104, R108) -/

end State

/-- R108: the decoder's fields after `DecClear()`. -/
def Decoder.cleared : Decoder :=
  { dstate := .opened, peq := false, nbits := 0, acc := 0, derr := .ok, dchar := 0 }

/-- R104: what `Pack(v)` leaves in `ACC` and `NBITS`, and the byte it emits. -/
structure Packed where
  acc : Byte
  nbits : BitVec 3
  emitted : Option Byte
  deriving DecidableEq, Repr

/-- R104: `Pack(v)`. `(ACC << 5) | v` is `ACC * 32 + v`, since `v` has 5 bits. -/
def pack (acc : Byte) (nbits : BitVec 3) (v : BitVec 5) : Packed :=
  let a := acc.toNat * 32 + v.toNat
  let n := nbits.toNat + 5
  if 8 ≤ n then
    { acc := BitVec.ofNat 8 (a % 2 ^ (n - 8)), nbits := BitVec.ofNat 3 (n - 8),
      emitted := some (BitVec.ofNat 8 (a >>> (n - 8))) }
  else
    { acc := BitVec.ofNat 8 a, nbits := BitVec.ofNat 3 n, emitted := none }

namespace State

/-- R108: `DecClear()`. -/
def decClear (s : State) : State :=
  { s with dec := Decoder.cleared, keyLen := 0, key := Vector.replicate 64 0 }

/-- R108: `DecFail(code, ch)`. -/
def decFail (s : State) (code : ResultCode) (ch : Byte) : State :=
  let s := s.decClear
  { s with dec := { s.dec with dstate := .error, derr := code, dchar := ch } }.raiseError code ch

/-- R106: a byte that `Pack` emits goes to `KEY[KEY_LEN]`, then `KEY_LEN <- KEY_LEN + 1`. -/
def keyAppend (s : State) : Option Byte → State
  | none => s
  | some b => { s with key := s.key.setIfInBounds s.keyLen.toNat b, keyLen := s.keyLen + 1 }

/-- R104, R106: `Pack(v)` on the decoder. -/
def packValue (s : State) (v : BitVec 5) : State :=
  let p := pack s.dec.acc s.dec.nbits v
  { s with dec := { s.dec with acc := p.acc, nbits := p.nbits } }.keyAppend p.emitted

/-- R184: `KeyDiscard()`. -/
def keyDiscard (s : State) : State := s.decClear

/-! ### Counter helpers (spec/41_counter.md R141, R143) -/

/-- R143: `ClearCounter()`. -/
def clearCounter (s : State) : State := { s with ctrHi := 0, ctrLo := 0, remain := 0 }

/-- R141: `CounterCompute()`, on the full 64-bit time (R145); used only where `STEP` is not 0. -/
def counterCompute (s : State) : State :=
  let t := s.time
  let step : DWord := s.stepSeconds.setWidth 64
  let c := t / step
  { s with ctrHi := c.extractLsb' 32 32, ctrLo := c.extractLsb' 0 32, remain := (step - t % step).setWidth 32 }

/-! ### Digit helpers (spec/42_digits.md R161 to R163) -/

/-- R163: `ClearCode()`. -/
def clearCode (s : State) : State :=
  { s with offset := 0, trunc := 0, code := 0, ascii := Vector.replicate 12 0, codeValid := false }

end State

/-- R162: `Dec(n, d)[j]`, one character of the rendering. -/
def decDigit (n d j : Nat) : Byte := BitVec.ofNat 8 (0x30 + n / 10 ^ (d - 1 - j) % 10)

/-- R161: `off`, the low 4 bits of the digest's last byte. -/
def truncOffset (digest : Vector Byte 64) (len : Nat) : BitVec 4 := (byteAt digest (len - 1)).setWidth 4

/-- R161: `t`, the four bytes at `off` read big-endian, without the sign bit. -/
def truncValue (digest : Vector Byte 64) (len : Nat) : BitVec 31 :=
  let off := (truncOffset digest len).toNat
  (be32 (byteAt digest off) (byteAt digest (off + 1)) (byteAt digest (off + 2)) (byteAt digest (off + 3))).setWidth 31

/-- R161: the twelve bytes of `ASCII` for a code of `d` digits. -/
def asciiOf (code d : Nat) : Vector Byte 12 := bytesOf 12 (fun j => if j < d then decDigit code d j else 0)

namespace State

/-- R161: `Extract(L, d)`; used only where `20 <= L <= 64` and `1 <= d <= 10`. -/
def extract (s : State) (len d : Nat) : State :=
  let t := truncValue s.digest len
  let code := t.toNat % 10 ^ d
  { s with offset := truncOffset s.digest len, trunc := t, code := BitVec.ofNat 32 code, ascii := asciiOf code d,
           codeValid := true }

/-! ### The digest buffer (spec/43_sequencer.md R182, R183) -/

/-- R182: `DIGEST[0..L-1] <- g; DIGEST[L..63] <- 0; x[DIGEST_LEN] <- L`. -/
def loadDigest (s : State) (g : List Byte) : State :=
  { s with digest := bytesOf 64 (fun i => g.getD i 0), digestLen := BitVec.ofNat 8 g.length }

/-- R182, R183: `DIGEST[0..63] <- 0; x[DIGEST_LEN] <- 0`. -/
def clearDigest (s : State) : State := { s with digest := Vector.replicate 64 0, digestLen := 0 }

/-- R182, R183: `hreq <- none; STATUS.BUSY <- 0`. -/
def endRequest (s : State) : State := { s with hreq := none, busy := false }

/-! ### Reset (spec/70_reset_and_hazards.md R240) -/

/-- R240, R186: every piece of the block's state takes its value of R44. What the agents outside the block hold is
theirs and stays (log 9). -/
def resetBlock (s : State) : State :=
  { State.reset with host := s.host, turns := s.turns, hostRead := s.hostRead, hashPoints := s.hashPoints }

/-! ### Register reads and writes (spec/20_memory.md R60, R65) -/

/-- R21, R65: the word a host read of a register returns. -/
def readReg (s : State) : Reg → Word
  | .cmd => 0
  | .status => s.statusWord
  | .ctrl => s.ctrl.word
  | .step => s.stepSeconds
  | .timeHi => s.timeHi
  | .timeLo => s.timeLo
  | .decStatus => s.dec.word
  | .keyLen => s.keyLen.setWidth 32
  | .ctrHi => s.ctrHi
  | .ctrLo => s.ctrLo
  | .remain => s.remain
  | .digestLen => s.digestLen.setWidth 32
  | .offset => s.offset.setWidth 32
  | .trunc => s.trunc.setWidth 32
  | .code => s.code
  | .codeAscii k => windowWord s.ascii k
  | .reserved => 0
  | .key k => windowWord s.key k
  | .digest k => windowWord s.digest k

/-- R60: `MemRead(idx, 4)`, the word at an index; it changes no state (R65). -/
def memRead (s : State) (idx : RegIdx) : Word := s.readReg (Reg.ofIdx idx)

/-- R21, R65: what a host write stores in a register that is not `CMD`; a read-only or reserved register drops the
write, and so do reserved bits (R22). The write itself is allowed only while `BUSY` = 0 (R71). -/
def storeReg (s : State) (w : Word) : Reg → State
  | .cmd => s
  | .status => s
  | .ctrl => { s with ctrl := Ctrl.ofWord w }
  | .step => { s with stepSeconds := w }
  | .timeHi => { s with timeHi := w }
  | .timeLo => { s with timeLo := w }
  | .decStatus => s
  | .keyLen => s
  | .ctrHi => s
  | .ctrLo => s
  | .remain => s
  | .digestLen => { s with digestLen := w.extractLsb' 0 8 }
  | .offset => s
  | .trunc => s
  | .code => s
  | .codeAscii _ => s
  | .reserved => s
  | .key _ => s
  | .digest k => { s with digest := windowSet s.digest k w }

end State
end Sys2Proof.Machine
end

