-- ==== Sys2Proof/Machine/Counter.lean ====
section
/-! DEFINITION. The TOTP counter generator (spec/41_counter.md R140). -/

namespace Sys2Proof.Machine

/-- R140: `CTR_GEN`. -/
def execCtrGen (s : State) : Host.Outcome State Fault Refusal :=
  let s := s.clearCode
  if s.stepSeconds = 0 then .next (s.clearCounter.raiseError .cfgStepZero 0)
  else .next s.counterCompute.recordOk

end Sys2Proof.Machine
end

