-- ==== Sys2Proof/Machine/Decoder.lean ====
section
/-! DEFINITION. The Base32 decoder commands (spec/40_decoder.md R105 to R107). -/

namespace Sys2Proof.Machine

/-- R105: `DEC_CLR`. -/
def execDecClr (s : State) : Host.Outcome State Fault Refusal := .next s.decClear.recordOk

/-- R106, the alphabet case: the overflow check, then `Pack`. `u` is `Upper(c)`. -/
def decFeed (u c : Byte) (s : State) : State :=
  if 8 ≤ s.dec.nbits.toNat + 5 ∧ s.keyLen.toNat = Config.kp2fa.keyMaxBytes then s.decFail .decOverflow c
  else (s.packValue (alphabetValue u)).recordOk

/-- R106, decoder OPEN: the checks in the order of R213. -/
def decCharOpen (c : Byte) (s : State) : State :=
  if isWS c then s.recordOk
  else if c = padChar then { s with dec := { s.dec with peq := true } }.recordOk
  else if s.dec.peq then s.decFail .decBadchar padChar
  else if inAlphabet (upper c) then decFeed (upper c) c s
  else s.decFail .decBadchar c

/-- R106: `DEC_CHAR c`. -/
def execDecChar (c : Byte) (s : State) : Host.Outcome State Fault Refusal :=
  match s.dec.dstate with
  | .done => .next (s.raiseError .decNotOpen 0)
  | .error => .next (s.raiseError s.dec.derr s.dec.dchar)
  | .opened => .next (decCharOpen c s)

/-- R107, decoder OPEN: strip the padding, discard the trailing bits, apply the empty policy. -/
def decEndOpen (s : State) : State :=
  let s := { s with dec := { s.dec with peq := false, acc := 0, nbits := 0 } }
  if s.keyLen = 0 ∧ s.ctrl.emptyErr then s.decFail .decEmpty 0
  else { s with dec := { s.dec with dstate := .done } }.recordOk

/-- R107: `DEC_END`. -/
def execDecEnd (s : State) : Host.Outcome State Fault Refusal :=
  match s.dec.dstate with
  | .done => .next (s.raiseError .decNotOpen 0)
  | .error => .next (s.raiseError s.dec.derr s.dec.dchar)
  | .opened => .next (decEndOpen s)

end Sys2Proof.Machine
end

