-- ==== Sys2Proof/Machine/Digits.lean ====
section
/-! DEFINITION. The digit extractor (spec/42_digits.md R160). -/

namespace Sys2Proof.Machine

/-- R160: `DIG_EXT`, with the checks in the order of R213. -/
def execDigExt (s : State) : Host.Outcome State Fault Refusal :=
  let s := s.clearCode
  if !s.digitsLegal then .next (s.raiseError .cfgDigits 0)
  else if !digestLenLegal s.digestLen.toNat then .next (s.raiseError .digestLenBad 0)
  else .next (s.extract s.digestLen.toNat s.ctrl.digits.toNat).recordOk

end Sys2Proof.Machine
end

