-- ==== Sys2Proof/Machine/Sequencer.lean ====
section
/-! DEFINITION. The sequencer: `GENERATE` in its two phases, `NOP` and `RESET` (spec/43_sequencer.md). -/

namespace Sys2Proof.Machine

/-- R180: phase 1 issues the hash request: `hreq <- (ALG, KEY[0..KEY_LEN-1], BE8(CTR))`, `BUSY <- 1`. -/
def State.issueRequest (s : State) : State :=
  { s with hreq := some { alg := s.ctrl.alg, key := s.keyBytes, msg := be8 s.ctr }, busy := true }

/-- R180: `GENERATE`, phase 1, with the checks in the order of R213. -/
def execGenerate (s : State) : Host.Outcome State Fault Refusal :=
  let s := s.clearCode.clearCounter
  if s.dec.dstate ≠ .done then .next (s.raiseError .noKey 0)
  else if s.stepSeconds = 0 then .next (s.keyDiscard.raiseError .cfgStepZero 0)
  else if !s.digitsLegal then .next (s.keyDiscard.raiseError .cfgDigits 0)
  else if s.keyLen = 0 then .next (s.keyDiscard.raiseError .cryptoEmptyKey 0)
  else .next s.counterCompute.issueRequest.recordOk

/-- R182: `GENERATE`, phase 2, on the answer `OK(g)`. -/
def hashAnswerOk (g : List Byte) (s : State) : State :=
  if digestLenLegal g.length then
    ((s.loadDigest g).extract g.length s.ctrl.digits.toNat).keyDiscard.endRequest.raiseError .ok 0
  else s.clearDigest.clearCounter.keyDiscard.endRequest.raiseError .digestLenBad 0

/-- R183: `GENERATE`, phase 2, on the answer `FAIL`. -/
def hashAnswerFail (s : State) : State :=
  s.clearDigest.clearCounter.clearCode.keyDiscard.endRequest.raiseError .cryptoHashFail 0

/-- R185: `NOP`. -/
def execNop (s : State) : Host.Outcome State Fault Refusal := .next s

/-- R186: `RESET`. -/
def execReset (s : State) : Host.Outcome State Fault Refusal := .next s.resetBlock

end Sys2Proof.Machine
end

