-- ==== Sys2Proof/Machine/Dispatch.lean ====
section
/-! DEFINITION. The meaning of every command (spec/43_sequencer.md R187): one arm per constructor of `Instr`. -/

namespace Sys2Proof.Machine

def exec (i : Instr) (s : State) : Host.Outcome State Fault Refusal :=
  match i with
  | .nop => Sys2Proof.Machine.execNop s
  | .decClr => Sys2Proof.Machine.execDecClr s
  | .decChar c => Sys2Proof.Machine.execDecChar c s
  | .decEnd => Sys2Proof.Machine.execDecEnd s
  | .ctrGen => Sys2Proof.Machine.execCtrGen s
  | .digExt => Sys2Proof.Machine.execDigExt s
  | .generate => Sys2Proof.Machine.execGenerate s
  | .reset => Sys2Proof.Machine.execReset s

end Sys2Proof.Machine
end

