-- ==== Sys2Proof/Machine/Agents.lean ====
section
/-! DEFINITION. The agents' steps: the host's accesses, the hash agent's answer, the hardware reset
(spec/00_scope.md R7, spec/20_memory.md R65, R67, R71, spec/43_sequencer.md R182, R187, spec/70_reset_and_hazards.md R240). -/

namespace Sys2Proof.Machine

/-- R187: the block's step on a word written to `CMD` while `BUSY` = 0. An illegal word records `ILLEGAL_CMD` and
changes nothing else (R83). -/
def performCommand (w : Word) (s : State) : Host.Outcome State Fault Refusal :=
  match decode w with
  | .ok i => exec i s
  | .error _ => .next (s.raiseError .illegalCmd 0)

/-- R60, R65, R71: `MemWrite(idx, 4, w)`. While `BUSY` = 1 it is dropped and records nothing. -/
def memWrite (idx : RegIdx) (w : Word) (s : State) : Host.Outcome State Fault Refusal :=
  if s.busy then .next s
  else match Reg.ofIdx idx with
    | .cmd => performCommand w s
    | r => .next (s.storeReg w r)

/-- R65, R250: a host read returns the word and changes no state of the block. -/
def hostReads (idx : RegIdx) (s : State) : State := { s with hostRead := some (s.memRead idx) }

/-- R21: the index of `STATUS`, which `wait.idle` polls (R87). -/
def statusIdx : RegIdx := 0x01

/-- R21: the index of `CMD`. -/
def cmdIdx : RegIdx := 0x00

/-- The host's step: its next access, in issue order (R66, R67). With no access left the host does nothing and
nothing changes (R7; log 7). `wait.idle` polls `STATUS` and is over when bit 0 reads 0 (R87; log 16). -/
def hostStep (s : State) : Host.Outcome State Fault Refusal :=
  match s.host with
  | [] => .next s
  | .read idx :: rest => .next (hostReads idx { s with host := rest })
  | .write idx w :: rest => memWrite idx w { s with host := rest }
  | .waitIdle :: rest =>
    if (s.memRead statusIdx).getLsbD 0 then .next (hostReads statusIdx s)
    else .next (hostReads statusIdx { s with host := rest })

/-- R182, R183, R190: the hash agent's step answers the outstanding request. Without one it is not enabled: its
turn passes and nothing changes (log 5). -/
def hashStep (ok : Bool) (s : State) : State :=
  match s.hreq with
  | none => s
  | some q => if ok then hashAnswerOk (s.hmac q) s else hashAnswerFail s

/-- One turn of one agent. -/
def takeTurn (t : Turn) (s : State) : Host.Outcome State Fault Refusal :=
  match t with
  | .host => hostStep s
  | .hashOk => .next (hashStep true s)
  | .hashFail => .next (hashStep false s)
  | .hardReset => .next s.resetBlock

/-- Whose turn it is: the head of `turns`; with none listed, the host's (R67; log 2). -/
def nextTurn (s : State) : Host.Outcome State Fault Refusal :=
  match s.turns with
  | [] => hostStep s
  | t :: ts => takeTurn t { s with turns := ts }

/-- `s` with a write of `w` to `CMD` as the host's next access and the host's turn next. -/
def State.issueCommand (s : State) (w : Word) : State :=
  { s with host := .write cmdIdx w :: s.host, turns := .host :: s.turns }

end Sys2Proof.Machine
end

