-- ==== Sys2Proof/Machine/Step.lean ====
section
/-! DEFINITION. One step of the machine: one step of one agent (spec/00_scope.md R7). -/

namespace Sys2Proof.Machine

/-- One step. -/
def step (s : State) : Host.Outcome State Fault Refusal := nextTurn s

/-- `s` with the command of a table word as the host's next access, so that the next step performs it. Commands are
not fetched (spec/20_memory.md R68): this stands for the host's issuing of the write (log 8). While `BUSY` = 1 the
block drops it, as it drops every write (R71). -/
def State.withFetchWord (s : State) (nbits w : Nat) : State := s.issueCommand (tableWord nbits w)

end Sys2Proof.Machine
end

