-- ==== Sys2Proof/Machine/Assembler.lean ====
section
/-! DEFINITION. The assembler's statements and pseudo-instructions as host accesses (spec/30_encoding.md R86, R87). -/

namespace Sys2Proof.Machine.Asm

/-- R86: a command statement writes one word to `CMD`. -/
def cmd (i : Instr) : HostAccess := .write cmdIdx (encode i)

/-- R86: `wr NAME, imm32`, at the index of the name. -/
def wr (idx : RegIdx) (imm : Word) : HostAccess := .write idx imm

/-- R86: `rd NAME`. -/
def rd (idx : RegIdx) : HostAccess := .read idx

/-- R87: `dec.str "s"`. -/
def decStr (text : List Byte) : List HostAccess :=
  cmd .decClr :: (text.map (fun c => cmd (.decChar c)) ++ [cmd .decEnd])

/-- R87: `wr.time imm64`. -/
def wrTime (t : DWord) : List HostAccess := [wr 0x04 (t.extractLsb' 32 32), wr 0x05 (t.extractLsb' 0 32)]

/-- R87: `wait.idle`. -/
def waitIdle : HostAccess := .waitIdle

/-- R87: word `k` of the digest `g`, missing bytes 0. -/
def digestWord (g : List Byte) (k : Nat) : Word :=
  be32 (g.getD (4 * k) 0) (g.getD (4 * k + 1) 0) (g.getD (4 * k + 2) 0) (g.getD (4 * k + 3) 0)

/-- R87: `wr.digest b0 .. bn-1`. DESIGN CHOICE (log 19): for more than 64 bytes, where no `DIGEST16` exists, the index
of a further word wraps to 6 bits. -/
def wrDigest (g : List Byte) : List HostAccess :=
  wr 0x0B (BitVec.ofNat 32 g.length) ::
    (List.range ((g.length + 3) / 4)).map (fun k => wr (BitVec.ofNat 6 (0x30 + k)) (digestWord g k))

end Sys2Proof.Machine.Asm
end

