-- ==== Sys2Proof/Machine/Reference.lean ====
section
/-! DEFINITION. The source's own functions over whole strings and unbounded integers, which the commands compute
piece by piece: `Decode` (spec/40_decoder.md R103) and `Dec` (spec/42_digits.md R162). -/

namespace Sys2Proof.Machine

/-- R103: what `Decode(s, e)` returns. -/
inductive DecodeResult where
  | bytes (key : List Byte)
  | fail (code : ResultCode) (ch : Byte)
  deriving DecidableEq, Repr

namespace Reference

/-- R103: "strip all whitespace". -/
def stripWS (s : List Byte) : List Byte := s.filter (fun c => !isWS c)

/-- R103: remove the longest suffix of `=` bytes. -/
def stripPad (t : List Byte) : List Byte := (t.reverse.dropWhile (fun c => c == padChar)).reverse

/-- R103: the loop over the characters of `t`, with `m` alphabet characters seen so far: the first failure. -/
def scan (m : Nat) : List Byte → Option (ResultCode × Byte)
  | [] => none
  | c :: t =>
    if !inAlphabet (upper c) then some (.decBadchar, c)
    else if Config.kp2fa.keyMaxBytes < 5 * (m + 1) / 8 then some (.decOverflow, c)
    else scan (m + 1) t

/-- R103: `bits` as a number: the 5-bit values of `t` concatenated, most significant first. -/
def bitsOf (t : List Byte) : Nat := t.foldl (fun b c => b * 32 + (alphabetValue (upper c)).toNat) 0

/-- R103: the whole 8-bit groups of the bits, most significant first; the trailing bits are discarded. -/
def groups (t : List Byte) : List Byte :=
  (List.range (5 * t.length / 8)).map (fun k => BitVec.ofNat 8 (bitsOf t >>> (5 * t.length - 8 - 8 * k)))

/-- R103: `Decode(s, e)`. -/
def decodeText (s : List Byte) (e : Bool) : DecodeResult :=
  let t := stripPad (stripWS s)
  match scan 0 t with
  | some (code, ch) => .fail code ch
  | none => if groups t = [] ∧ e then .fail .decEmpty 0 else .bytes (groups t)

/-- R162: `Dec(n, d)`, the `d` characters of `n` in decimal, most significant first. -/
def dec (n d : Nat) : List Byte := (List.range d).map (fun j => BitVec.ofNat 8 (0x30 + n / 10 ^ (d - 1 - j) % 10))

/-- R161: dynamic truncation of a digest, on integers: the offset is the last byte mod 16, and the four bytes at it,
most significant first, lose their sign bit. -/
def truncate (g : List Byte) : Nat :=
  let off := (g.getD (g.length - 1) 0).toNat % 16
  let b := fun k => (g.getD (off + k) 0).toNat
  (b 0 * 2 ^ 24 + b 1 * 2 ^ 16 + b 2 * 2 ^ 8 + b 3) % 2 ^ 31

/-- R161, R162: the code string of a digest. -/
def codeString (g : List Byte) (d : Nat) : List Byte := dec (truncate g % 10 ^ d) d

end Reference
end Sys2Proof.Machine
end

