-- ==== Sys2Proof/Safety.lean ====
section
/-! DEFINITION. The invariants of the block (spec/10_state.md R43, spec/43_sequencer.md R181) and what a run is. -/

namespace Sys2Proof.Machine

/-- R43: what every state the block reaches satisfies; the names give R43's letters. R43(h) holds of every state,
since `STATUS.KEY_VALID` is computed (log 11). -/
structure BlockInv (s : State) : Prop where
  /-- (a): `NBITS <= 7` is by type. -/
  a_acc : s.dec.acc.toNat < 2 ^ s.dec.nbits.toNat
  /-- (b) -/
  b_len : s.keyLen.toNat ≤ 64
  /-- (b) -/
  b_zero : ∀ i, s.keyLen.toNat ≤ i → byteAt s.key i = 0
  /-- (c) -/
  c_error : s.dec.dstate = .error →
    s.keyLen = 0 ∧ s.dec.nbits = 0 ∧ s.dec.acc = 0 ∧ s.dec.peq = false ∧ s.dec.derr ≠ .ok
  /-- (d) -/
  d_fail : s.dec.dstate ≠ .error → s.dec.derr = .ok ∧ s.dec.dchar = 0
  /-- (e) -/
  e_done : s.dec.dstate = .done → s.dec.nbits = 0 ∧ s.dec.acc = 0 ∧ s.dec.peq = false
  /-- (f) -/
  f_code : s.codeValid = false →
    s.offset = 0 ∧ s.trunc = 0 ∧ s.code = 0 ∧ s.ascii = Vector.replicate 12 0
  /-- (g) -/
  g_busy : s.busy = true ↔ s.hreq ≠ none

/-- R180, R181, R246: while a request is outstanding it is the one the registers name, the checks of phase 1 hold, the
counter is that of `TIME` and `STEP`, and no code is shown. -/
def RequestInv (s : State) : Prop :=
  ∀ q, s.hreq = some q →
    s.busy = true ∧ s.codeValid = false ∧ s.dec.dstate = .done ∧ s.digitsLegal = true ∧ s.stepSeconds ≠ 0 ∧
    0 < s.keyLen.toNat ∧ s.keyLen.toNat ≤ 64 ∧
    q.alg = s.ctrl.alg ∧ q.key = s.keyBytes ∧ q.msg = be8 s.ctr ∧
    s.ctr.toNat = s.time.toNat / s.stepSeconds.toNat ∧
    s.remain.toNat = s.stepSeconds.toNat - s.time.toNat % s.stepSeconds.toNat

/-- R8, R189: what the platform has fixed of the hash primitive agrees with "20 bytes for SHA-1". -/
def HashAgentConforms (s : State) : Prop := ∀ p ∈ s.hashPoints, p.request.alg = 0 → p.digest.length = 20

/-- R38: the code fits 31 bits. -/
def CodeFits (s : State) : Prop := s.code.toNat < 2 ^ 31

/-- `s'` is reached from `s` in `n` steps. -/
def RunsTo (n : Nat) (s s' : State) : Prop := Sys2Proof.core.run n s = .next s'

/-- What the agents outside the block hold is the same in both states. -/
def SameAgents (s t : State) : Prop :=
  t.host = s.host ∧ t.turns = s.turns ∧ t.hostRead = s.hostRead ∧ t.hashPoints = s.hashPoints

/-- It is the host's turn in `s`, its next access is `a`, and `s0` is `s` without that turn and that access. -/
def HostMoves (s : State) (a : HostAccess) (s0 : State) : Prop :=
  ∃ hs, s.host = a :: hs ∧
    ((s.turns = [] ∧ s0 = { s with host := hs }) ∨
     ∃ ts, s.turns = .host :: ts ∧ s0 = { s with host := hs, turns := ts })

/-- It is another agent's turn in `s`, the turn is `t`, and `s0` is `s` without that turn. -/
def AgentMoves (s : State) (t : Turn) (s0 : State) : Prop :=
  ∃ ts, s.turns = t :: ts ∧ s0 = { s with turns := ts }

/-- R108, R184: the decoder is OPEN and empty and no key byte is left. -/
def KeyGone (s : State) : Prop :=
  s.dec = { dstate := .opened, peq := false, nbits := 0, acc := 0, derr := .ok, dchar := 0 } ∧
  s.keyLen = 0 ∧ ∀ i, byteAt s.key i = 0

/-- R163: no code is shown. -/
def CodeGone (s : State) : Prop :=
  s.codeValid = false ∧ s.offset = 0 ∧ s.trunc = 0 ∧ s.code = 0 ∧ ∀ j, byteAt s.ascii j = 0

end Sys2Proof.Machine
end

