-- ==== Sys2Proof/Certificates/Slice0/Obligations.lean ====
section
/-! DEFINITION. The statements for the provers. Each docstring names the rules of spec/ it rests on. -/

open Sys2Proof Sys2Proof.Machine

/-! ### Command words -/

/-- R80, R81, R85. Decoding and encoding agree in both directions: a word decodes to a command exactly when it is that
command's word, `DEC_CHAR` at every character included. -/
def Obligations.DecodeIffEncode : Prop :=
  ∀ (w : Word) (i : Instr), decode w = .ok i ↔ w = encode i

/-- R81, R83. A word is the command of the row that admits it, with `c = w[7:0]` for `DEC_CHAR`; no two rows admit one
word; a word is illegal exactly when no row admits it, which is by one of the three grounds of R83. -/
def Obligations.RowDecidesCommand : Prop :=
  ∀ w : Word,
    (∀ r ∈ opcodeRows, r.admits w = true →
      ∃ i, decode w = .ok i ∧ i.mnemonic = r.mnemonic ∧ ∀ c, i = .decChar c → c = w.extractLsb' 0 8) ∧
    (∀ r ∈ opcodeRows, ∀ r' ∈ opcodeRows, r.admits w = true → r'.admits w = true → r = r') ∧
    ((∀ r ∈ opcodeRows, r.admits w = false) ↔ ∃ e, decode w = .error e) ∧
    ((∀ r ∈ opcodeRows, r.admits w = false) ↔
      w.extractLsb' 24 8 ∉ [0x00#8, 0x01#8, 0x02#8, 0x03#8, 0x10#8, 0x20#8, 0x30#8, 0xFF#8] ∨
      w.extractLsb' 8 16 ≠ 0 ∨ (w.extractLsb' 0 8 ≠ 0 ∧ w.extractLsb' 24 8 ≠ 0x02))

/-- R84. There are 263 legal command words. -/
def Obligations.LegalWordCount : Prop :=
  ∃ ws : List Word, ws.length = 263 ∧ ws.Nodup ∧ ∀ w, w ∈ ws ↔ ∃ i, decode w = .ok i

/-- R81, R86. Words written out from the spec decode to what they stand for. -/
def Obligations.SpecWordsDecode : Prop :=
  decode 0x00000000 = .ok .nop ∧ decode 0x01000000 = .ok .decClr ∧ decode 0x0200004A = .ok (.decChar 0x4A) ∧
  decode 0x020000FF = .ok (.decChar 0xFF) ∧ decode 0x03000000 = .ok .decEnd ∧ decode 0x10000000 = .ok .ctrGen ∧
  decode 0x20000000 = .ok .digExt ∧ decode 0x30000000 = .ok .generate ∧ decode 0xFF000000 = .ok .reset ∧
  (decode 0x00000001).toOption = none ∧ (decode 0x01000100).toOption = none ∧ (decode 0x0200FF41).toOption = none ∧
  (decode 0x04000000).toOption = none ∧ (decode 0xFE000000).toOption = none ∧ (decode 0xFF000001).toOption = none

/-! ### Steps, reads and writes -/

/-- R187. The step on a host write of `w` to `CMD`: while `BUSY` = 0 the decoded command's meaning, or the illegal word's
one effect; while `BUSY` = 1 the write is ignored. -/
def Obligations.StepPerformsDecodedCommand : Prop :=
  ∀ (s s0 : State) (w : Word), HostMoves s (.write 0x00 w) s0 →
    (s.busy = true → step s = .next s0) ∧
    (s.busy = false →
      (∀ i, decode w = .ok i → step s = exec i s0) ∧
      (∀ e, decode w = .error e → step s = .next { s0 with err := .illegalCmd, errChar := 0 }))

/-- R83. A word that no row matches, which is by one of the three grounds, changes no state except that it records
`ILLEGAL_CMD` (0x30) with no character. -/
def Obligations.IllegalWordOnlyRecords : Prop :=
  ∀ w : Word,
    ((∀ r ∈ opcodeRows, r.admits w = false) ↔
      w.extractLsb' 24 8 ∉ [0x00#8, 0x01#8, 0x02#8, 0x03#8, 0x10#8, 0x20#8, 0x30#8, 0xFF#8] ∨
      w.extractLsb' 8 16 ≠ 0 ∨ (w.extractLsb' 0 8 ≠ 0 ∧ w.extractLsb' 24 8 ≠ 0x02)) ∧
    ∀ s s0 : State, (∀ r ∈ opcodeRows, r.admits w = false) → s.busy = false → HostMoves s (.write 0x00 w) s0 →
      ∃ t, step s = .next t ∧ t = { s0 with err := .illegalCmd, errChar := 0 } ∧
        (t.memRead 0x01).extractLsb' 8 8 = 0x30 ∧ (t.memRead 0x01).extractLsb' 16 8 = 0

/-- R71. While `BUSY` = 1 every host write, to any index, changes no state and records no result, and host reads are
served. -/
def Obligations.BusyDropsEveryWrite : Prop :=
  ∀ (s s0 : State) (idx : RegIdx), s.busy = true →
    (∀ w, HostMoves s (.write idx w) s0 → step s = .next s0) ∧
    (HostMoves s (.read idx) s0 → step s = .next { s0 with hostRead := some (s.memRead idx) })

/-- R60, R65 (reads). A read returns the register's word and changes no register and no other state of the block. -/
def Obligations.ReadsChangeNothing : Prop :=
  ∀ (s s0 : State) (idx : RegIdx), HostMoves s (.read idx) s0 →
    ∃ t, step s = .next t ∧ t = { s0 with hostRead := some (s.memRead idx) } ∧
      (∀ j, t.memRead j = s.memRead j) ∧ t.hreq = s.hreq

/-- R21, R22, R25, R26, R27, R34, R35, R65 (writes). A host write to a register other than `CMD` while `BUSY` = 0: a
writable register reads back the written word without its reserved bits, a read-only or reserved one keeps its word, and
every other register, the outstanding request and what the agents hold stay. -/
def Obligations.RegisterWriteReadsBack : Prop :=
  ∀ (s s0 : State) (idx : RegIdx) (w : Word), s.busy = false → idx ≠ 0x00 → HostMoves s (.write idx w) s0 →
    ∃ t, step s = .next t ∧
      t.memRead idx =
        (if idx = 0x02 then w &&& 0x000003F1
         else if idx = 0x03 ∨ idx = 0x04 ∨ idx = 0x05 then w
         else if idx = 0x0B then w &&& 0x000000FF
         else if 0x30 ≤ idx then w
         else s.memRead idx) ∧
      (∀ j, j ≠ idx → t.memRead j = s.memRead j) ∧ t.hreq = s.hreq ∧ SameAgents s0 t

/-- R22, R23. `CMD` and the reserved indices read 0, reserved bits of defined registers read 0, and a write to a
reserved index is ignored. -/
def Obligations.ReservedReadsZero : Prop :=
  (∀ (s : State) (idx : RegIdx), idx = 0x00 ∨ (0x12 ≤ idx ∧ idx ≤ 0x1F) → s.memRead idx = 0) ∧
  (∀ s : State,
    s.memRead 0x01 &&& 0xFF0000F8 = 0 ∧ s.memRead 0x02 &&& 0xFFFFFC0E = 0 ∧ s.memRead 0x06 &&& 0x00000088 = 0 ∧
    s.memRead 0x07 &&& 0xFFFFFF80 = 0 ∧ s.memRead 0x0B &&& 0xFFFFFF00 = 0 ∧ s.memRead 0x0C &&& 0xFFFFFFF0 = 0 ∧
    s.memRead 0x0D &&& 0x80000000 = 0) ∧
  (∀ (s s0 : State) (idx : RegIdx) (w : Word), s.busy = false → 0x12 ≤ idx → idx ≤ 0x1F →
    HostMoves s (.write idx w) s0 → step s = .next s0)

/-- R24, R25, R28, R211. The fields of `STATUS`, `CTRL` and `DEC_STATUS` stand at the spec's bits, and `ERR` and `DERR`
hold the number that R211's table gives each of the twelve results. -/
def Obligations.StatusWordsDecompose : Prop :=
  let number : ResultCode → Byte
    | .ok => 0x00
    | .decBadchar => 0x01
    | .decEmpty => 0x02
    | .decOverflow => 0x03
    | .decNotOpen => 0x04
    | .cryptoEmptyKey => 0x10
    | .cryptoHashFail => 0x11
    | .noKey => 0x12
    | .cfgStepZero => 0x20
    | .cfgDigits => 0x21
    | .digestLenBad => 0x22
    | .illegalCmd => 0x30
  ∀ s : State,
    (s.memRead 0x01).getLsbD 0 = s.busy ∧ (s.memRead 0x01).getLsbD 1 = s.codeValid ∧
    ((s.memRead 0x01).getLsbD 2 = true ↔ s.dec.dstate = .done) ∧
    (s.memRead 0x01).extractLsb' 8 8 = number s.err ∧ (s.memRead 0x01).extractLsb' 16 8 = s.errChar ∧
    (s.memRead 0x01).extractLsb' 8 8 ∈
      [0x00#8, 0x01#8, 0x02#8, 0x03#8, 0x04#8, 0x10#8, 0x11#8, 0x12#8, 0x20#8, 0x21#8, 0x22#8, 0x30#8] ∧
    (s.memRead 0x02).getLsbD 0 = s.ctrl.emptyErr ∧ (s.memRead 0x02).extractLsb' 4 4 = s.ctrl.digits ∧
    (s.memRead 0x02).extractLsb' 8 2 = s.ctrl.alg ∧
    ((s.memRead 0x06).extractLsb' 0 2).toNat =
      (match s.dec.dstate with | .opened => 0 | .done => 1 | .error => 2) ∧
    (s.memRead 0x06).getLsbD 2 = s.dec.peq ∧ (s.memRead 0x06).extractLsb' 4 3 = s.dec.nbits ∧
    (s.memRead 0x06).extractLsb' 8 8 = s.dec.acc ∧ (s.memRead 0x06).extractLsb' 16 8 = number s.dec.derr ∧
    (s.memRead 0x06).extractLsb' 24 8 = s.dec.dchar

/-- R61, R31, R35, R39. Buffer byte `i` is in word `floor(i/4)` of its window at bits `31-8*(i mod 4) : 24-8*(i mod 4)`,
in each of the three windows. -/
def Obligations.WindowsAreBigEndian : Prop :=
  ∀ (s : State) (i : Nat),
    (i < 64 → (s.memRead (BitVec.ofNat 6 (0x20 + i / 4))).extractLsb' (24 - 8 * (i % 4)) 8 = byteAt s.key i) ∧
    (i < 64 → (s.memRead (BitVec.ofNat 6 (0x30 + i / 4))).extractLsb' (24 - 8 * (i % 4)) 8 = byteAt s.digest i) ∧
    (i < 12 → (s.memRead (BitVec.ofNat 6 (0x0F + i / 4))).extractLsb' (24 - 8 * (i % 4)) 8 = byteAt s.ascii i)

/-- R217, R210. Nothing stops the machine: every step, and every command in every state, answers a next state. -/
def Obligations.NothingStops : Prop :=
  (∀ s : State, ∃ t, step s = .next t) ∧ (∀ (i : Instr) (s : State), ∃ t, exec i s = .next t)

/-! ### Reset -/

/-- R44. After reset, which is the state `State.reset`, the hardware reset and the `RESET` command alike, every register
reads its reset value and no request is outstanding. -/
def Obligations.ResetValues : Prop :=
  ∀ t : State,
    (t = State.reset ∨ (∃ s s0, AgentMoves s .hardReset s0 ∧ step s = .next t) ∨ (∃ s, exec .reset s = .next t)) →
    t.hreq = none ∧
    ∀ idx : RegIdx, t.memRead idx = if idx = 0x02 then 0x00000061 else if idx = 0x03 then 0x0000001E else 0

/-- R43, R181 and R38 at reset: the invariants hold of the state after reset. The last clause (R8, R189) holds because
`State.reset` lists no hash points, which is the model's choice (log 3). -/
def Obligations.ResetKeepsInvariants : Prop :=
  BlockInv State.reset ∧ RequestInv State.reset ∧ CodeFits State.reset ∧ HashAgentConforms State.reset

/-- R186, R240, R241. The `RESET` command and the hardware reset have one effect, from every state: every register at its
reset value and no outstanding request. What the agents outside the block hold stays (log 9, the model's choice). -/
def Obligations.BothResetsAgree : Prop :=
  encode .reset = 0xFF000000 ∧
  (∀ s : State, ∃ t, exec .reset s = .next t ∧ SameAgents s t ∧ t = { State.reset with
      host := s.host, turns := s.turns, hostRead := s.hostRead, hashPoints := s.hashPoints } ∧
    t.hreq = none ∧ ∀ idx, t.memRead idx = if idx = 0x02 then 0x61 else if idx = 0x03 then 0x1E else 0) ∧
  (∀ s s0 : State, AgentMoves s .hardReset s0 → step s = exec .reset s0)

/-! ### Invariants -/

/-- R43 (the spec's own derivation), with its letters (a) to (g) in `BlockInv` and (h) beside it: every step from a state
that has the invariant answers a state that has it. -/
def Obligations.StepKeepsBlockInvariant : Prop :=
  ∀ s t : State, BlockInv s → step s = .next t →
    BlockInv t ∧ t.dec.nbits.toNat ≤ 7 ∧ ((t.memRead 0x01).getLsbD 2 = true ↔ t.dec.dstate = .done)

/-- R43 (the spec's own derivation) as it reads: every state that any host program reaches from reset, with any answers
of the hash agent and resets between its accesses, has the invariant. -/
def Obligations.ReachedStatesHaveInvariant : Prop :=
  ∀ (n : Nat) (host : List HostAccess) (turns : List Turn) (points : List HashPoint) (t : State),
    RunsTo n { State.reset with host := host, turns := turns, hashPoints := points } t →
    BlockInv t ∧ RequestInv t ∧ t.dec.nbits.toNat ≤ 7 ∧ ((t.memRead 0x01).getLsbD 2 = true ↔ t.dec.dstate = .done)

/-- R180, R181, R246. Every step keeps the invariant of an outstanding request: it is the one the registers name. -/
def Obligations.StepKeepsRequestInvariant : Prop :=
  ∀ s t : State, BlockInv s → RequestInv s → step s = .next t → RequestInv t

/-- R38. Every step keeps `CODE` below 2^31, so that bit 31 reads 0. -/
def Obligations.StepKeepsCodeFits : Prop :=
  ∀ s t : State, CodeFits s → step s = .next t → CodeFits t

/-! ### The decoder -/

/-- R100, R101, R102. The closed forms are the alphabet's index, the six whitespace bytes, and the folding of `a`..`z`. -/
def Obligations.CharacterClasses : Prop :=
  ∀ u : Byte,
    (inAlphabet u = true ↔ u ∈ Config.kp2fa.alphabet) ∧
    (∀ v, Config.kp2fa.alphabet[v]? = some u → (alphabetValue u).toNat = v) ∧
    (isWS u = true ↔ u ∈ [0x09#8, 0x0A#8, 0x0B#8, 0x0C#8, 0x0D#8, 0x20#8]) ∧
    (0x61 ≤ u.toNat ∧ u.toNat ≤ 0x7A → (upper u).toNat = u.toNat - 0x20) ∧
    (u.toNat < 0x61 ∨ 0x7A < u.toNat → upper u = u)

/-- R105. `DEC_CLR` answers the state with the decoder OPEN and empty, no key, and `OK`; nothing else changes. -/
def Obligations.DecClrEmptiesDecoder : Prop :=
  encode .decClr = 0x01000000 ∧
  ∀ s : State, ∃ t, exec .decClr s = .next t ∧ KeyGone t ∧ (t.memRead 0x01).getLsbD 2 = false ∧
    t = { s with dec := { dstate := .opened, peq := false, nbits := 0, acc := 0, derr := .ok, dchar := 0 },
                 keyLen := 0, key := t.key, err := .ok, errChar := 0 }

/-- R106. `DEC_CHAR c`, case by case, with the whole next state of each case. The last two are R104's `Pack`, on the
bits: below three pending bits no byte completes; from three on one byte does, and goes to `KEY[KEY_LEN]`. -/
def Obligations.DecCharByCase : Prop :=
  ∀ (s : State) (c : Byte), encode (.decChar c) = 0x02000000 ||| c.setWidth 32 ∧
    (s.dec.dstate = .done → exec (.decChar c) s = .next { s with err := .decNotOpen, errChar := 0 }) ∧
    (s.dec.dstate = .error → exec (.decChar c) s = .next { s with err := s.dec.derr, errChar := s.dec.dchar }) ∧
    (s.dec.dstate = .opened →
      let failed (code : ResultCode) (ch : Byte) : State :=
        { s with dec := { dstate := .error, peq := false, nbits := 0, acc := 0, derr := code, dchar := ch },
                 keyLen := 0, key := Vector.replicate 64 0, err := code, errChar := ch }
      (isWS c = true → exec (.decChar c) s = .next { s with err := .ok, errChar := 0 }) ∧
      (c = 0x3D → exec (.decChar c) s =
        .next { s with dec := { s.dec with peq := true }, err := .ok, errChar := 0 }) ∧
      (isWS c = false → c ≠ 0x3D → s.dec.peq = true → exec (.decChar c) s = .next (failed .decBadchar 0x3D)) ∧
      (isWS c = false → c ≠ 0x3D → s.dec.peq = false → upper c ∉ Config.kp2fa.alphabet →
        exec (.decChar c) s = .next (failed .decBadchar c)) ∧
      (∀ v, s.dec.peq = false → Config.kp2fa.alphabet[v]? = some (upper c) →
        (3 ≤ s.dec.nbits.toNat → s.keyLen.toNat = 64 →
          exec (.decChar c) s = .next (failed .decOverflow c)) ∧
        (s.dec.nbits.toNat < 3 →
          exec (.decChar c) s = .next { s with
            dec := { s.dec with acc := (s.dec.acc <<< 5) ||| BitVec.ofNat 8 v, nbits := s.dec.nbits + 5 },
            err := .ok, errChar := 0 }) ∧
        (3 ≤ s.dec.nbits.toNat → s.keyLen.toNat < 64 →
          let a : BitVec 16 := (s.dec.acc.setWidth 16 <<< 5) ||| BitVec.ofNat 16 v
          let n := s.dec.nbits.toNat - 3
          exec (.decChar c) s = .next { s with
            dec := { s.dec with acc := (a &&& ((1#16 <<< n) - 1)).setWidth 8, nbits := BitVec.ofNat 3 n },
            key := s.key.setIfInBounds s.keyLen.toNat ((a >>> n).setWidth 8), keyLen := s.keyLen + 1,
            err := .ok, errChar := 0 })))

/-- R107. `DEC_END`, case by case, with the whole next state of each case. -/
def Obligations.DecEndByCase : Prop :=
  encode .decEnd = 0x03000000 ∧
  ∀ s : State,
    (s.dec.dstate = .done → exec .decEnd s = .next { s with err := .decNotOpen, errChar := 0 }) ∧
    (s.dec.dstate = .error → exec .decEnd s = .next { s with err := s.dec.derr, errChar := s.dec.dchar }) ∧
    (s.dec.dstate = .opened → s.keyLen = 0 → s.ctrl.emptyErr = true →
      exec .decEnd s = .next { s with
        dec := { dstate := .error, peq := false, nbits := 0, acc := 0, derr := .decEmpty, dchar := 0 },
        keyLen := 0, key := Vector.replicate 64 0, err := .decEmpty, errChar := 0 }) ∧
    (s.dec.dstate = .opened → s.keyLen ≠ 0 ∨ s.ctrl.emptyErr = false →
      ∃ t, exec .decEnd s = .next t ∧ (t.memRead 0x01).getLsbD 2 = true ∧ t = { s with
        dec := { s.dec with dstate := .done, peq := false, nbits := 0, acc := 0 }, err := .ok, errChar := 0 })

/-- R216, R29. A failed decode is sticky: `DEC_CHAR` and `DEC_END` re-report it in `STATUS` and change nothing else, so that
`STATUS` again names what `DEC_STATUS` holds, and every other register reads as before. -/
def Obligations.DecodeFailureIsSticky : Prop :=
  ∀ (s : State) (i : Instr), s.dec.dstate = .error → (i = .decEnd ∨ ∃ c, i = .decChar c) →
    ∃ t, exec i s = .next t ∧ t = { s with err := s.dec.derr, errChar := s.dec.dchar } ∧
      (t.memRead 0x01).extractLsb' 8 16 = (s.memRead 0x06).extractLsb' 16 16 ∧
      ∀ idx, idx ≠ 0x01 → t.memRead idx = s.memRead idx

/-- R29. The decoder's transitions, whichever agent steps: DONE and ERROR are left only for OPEN and empty, and only OPEN
leads to DONE or ERROR. -/
def Obligations.DecoderTransitions : Prop :=
  ∀ s t : State, step s = .next t → s.dec.dstate ≠ .opened → t.dec = s.dec ∨ KeyGone t

/-- R111 (the spec's own derivation). The command sequence `dec.str "s"` computes R103's `Decode(s, EMPTY_ERR)`, for every byte string. -/
def Obligations.SerialDecodeRefinesDecode : Prop :=
  ∀ (s : State) (text : List Byte) (rest : List HostAccess),
    s.busy = false → s.turns = [] → s.host = Asm.decStr text ++ rest →
    ∃ t, RunsTo (text.length + 2) s t ∧ t.host = rest ∧ t.turns = [] ∧ t.busy = false ∧ t.ctrl = s.ctrl ∧
      match Reference.decodeText text s.ctrl.emptyErr with
      | .bytes key =>
        t.dec.dstate = .done ∧ t.keyLen.toNat = key.length ∧ t.keyBytes = key ∧ t.err = .ok ∧ t.errChar = 0
      | .fail code ch =>
        t.dec.dstate = .error ∧ t.dec.derr = code ∧ t.dec.dchar = ch ∧ t.keyLen = 0 ∧ t.err = code ∧ t.errChar = ch

/-- R104, R110, R112. Feeding `m` alphabet characters to an empty decoder: up to 103 are within the limit and leave
`floor(5m/8)` key bytes and `5m mod 8` pending bits; at 104 or more the decode has failed with `DEC_OVERFLOW` naming the
104th. -/
def Obligations.PackedLengths : Prop :=
  ∀ (s : State) (text : List Byte), (∀ c ∈ text, upper c ∈ Config.kp2fa.alphabet) →
    s.busy = false → s.turns = [] → s.host = text.map (fun c => HostAccess.write 0x00 (encode (.decChar c))) →
    KeyGone s →
    ∃ t, RunsTo text.length s t ∧
      (text.length ≤ 103 → t.dec.dstate = .opened ∧ t.keyLen.toNat = 5 * text.length / 8 ∧
        t.dec.nbits.toNat = 5 * text.length % 8) ∧
      (104 ≤ text.length → t.dec.dstate = .error ∧ t.dec.derr = .decOverflow ∧ text[103]? = some t.dec.dchar)

/-- R103, R109, R102. `dec.str` does not see whitespace, the number of trailing `=`, or the case of letters: the texts
without the one, with more of the other, and in upper case run to the same state. Where the decode fails the upper-case
text fails with the same result; the character named is the one fed. -/
def Obligations.DecodeIgnoresNormalisedParts : Prop :=
  ∀ (s : State) (text : List Byte) (k : Nat) (rest : List HostAccess), s.busy = false → s.turns = [] →
    let feeds (text : List Byte) (t : State) : Prop :=
      RunsTo (text.length + 2) { s with host := Asm.decStr text ++ rest } t
    ∃ t u, feeds text t ∧ feeds (text.filter (fun c => !isWS c)) t ∧ feeds (text ++ List.replicate k 0x3D) t ∧
      feeds (text.map upper) u ∧ t.host = rest ∧ t.dec.dstate ≠ .opened ∧
      (t.dec.dstate = .done → u = t) ∧
      (t.dec.dstate = .error → u.dec.dchar = upper t.dec.dchar ∧ u.errChar = upper t.errChar ∧
        u = { t with dec := { t.dec with dchar := u.dec.dchar }, errChar := u.errChar })

/-! ### The counter -/

/-- R140, R141. `CTR_GEN`: the quotient and the seconds remaining in unbounded integers, the code registers cleared, and
nothing else changed; with `STEP` = 0 the counter registers cleared and `CFG_STEP_ZERO`. -/
def Obligations.CtrGenByCase : Prop :=
  encode .ctrGen = 0x10000000 ∧
  ∀ s : State,
    (s.stepSeconds ≠ 0 → ∃ t, exec .ctrGen s = .next t ∧
      t.ctr.toNat * s.stepSeconds.toNat ≤ s.time.toNat ∧
      s.time.toNat < (t.ctr.toNat + 1) * s.stepSeconds.toNat ∧ t.ctr.toNat ≤ s.time.toNat ∧
      t.remain.toNat = s.stepSeconds.toNat - s.time.toNat % s.stepSeconds.toNat ∧
      1 ≤ t.remain.toNat ∧ t.remain.toNat ≤ s.stepSeconds.toNat ∧ CodeGone t ∧
      t = { s with ctrHi := t.ctrHi, ctrLo := t.ctrLo, remain := t.remain, offset := 0, trunc := 0, code := 0,
                   ascii := t.ascii, codeValid := false, err := .ok, errChar := 0 }) ∧
    (s.stepSeconds = 0 → ∃ t, exec .ctrGen s = .next t ∧ CodeGone t ∧
      t = { s with ctrHi := 0, ctrLo := 0, remain := 0, offset := 0, trunc := 0, code := 0,
                   ascii := t.ascii, codeValid := false, err := .cfgStepZero, errChar := 0 })

/-- R142 (the spec's own derivation). The corner cases (a) to (g) of the counter computation. -/
def Obligations.CounterCornerCases : Prop :=
  ∀ s t : State, exec .ctrGen s = .next t →
    (s.stepSeconds = 1 → t.ctr = s.time ∧ t.remain = 1) ∧
    (s.time.toNat < s.stepSeconds.toNat → t.ctr = 0 ∧ t.remain.toNat = s.stepSeconds.toNat - s.time.toNat ∧
      (s.time = 0 → t.remain = s.stepSeconds)) ∧
    (s.stepSeconds ≠ 0 → s.time.toNat % s.stepSeconds.toNat = 0 → t.remain = s.stepSeconds ∧ t.remain ≠ 0) ∧
    (s.stepSeconds ≠ 0 → s.time.toNat % s.stepSeconds.toNat = s.stepSeconds.toNat - 1 → t.remain = 1) ∧
    (s.time.toNat = 2 ^ 64 - 1 → s.stepSeconds = 30 → t.ctr = 0x0888888888888888 ∧ t.remain = 15) ∧
    (s.stepSeconds ≠ 0 → 2 ^ 32 * s.stepSeconds.toNat ≤ s.time.toNat → (be8 t.ctr).take 4 ≠ [0, 0, 0, 0]) ∧
    (s.stepSeconds.toNat = 2 ^ 32 - 1 → t.ctr.toNat ≤ 2 ^ 32 + 1) ∧
    (s.stepSeconds = 0 → t.err = .cfgStepZero ∧ t.ctr = 0 ∧ t.remain = 0)

/-- R144 (the spec's own derivation). For one `STEP` the counter is monotone in the time, constant within a window, and one more one step later. -/
def Obligations.CounterMonotoneInTime : Prop :=
  ∀ s1 s2 t1 t2 : State, s1.stepSeconds ≠ 0 → s2.stepSeconds = s1.stepSeconds →
    exec .ctrGen s1 = .next t1 → exec .ctrGen s2 = .next t2 →
    (s1.time.toNat ≤ s2.time.toNat → t1.ctr.toNat ≤ t2.ctr.toNat) ∧
    (s1.time.toNat / s1.stepSeconds.toNat = s2.time.toNat / s1.stepSeconds.toNat → t1.ctr = t2.ctr) ∧
    (s2.time.toNat = s1.time.toNat + s1.stepSeconds.toNat → t2.ctr.toNat = t1.ctr.toNat + 1)

/-- R62, R32, R145. The message is the 8 bytes of the counter, most significant first, and so the bytes of `CTR_HI` then
`CTR_LO` as a host reads them: the counter divided by 2^32, and the rest. -/
def Obligations.MessageIsCounterBigEndian : Prop :=
  ∀ (s : State) (c : DWord),
    (be8 c).length = 8 ∧ (be8 c).foldl (fun n b => n * 256 + b.toNat) 0 = c.toNat ∧
    (∀ k, k < 4 → (be8 s.ctr)[k]? = some ((s.memRead 0x08).extractLsb' (24 - 8 * k) 8) ∧
      (be8 s.ctr)[4 + k]? = some ((s.memRead 0x09).extractLsb' (24 - 8 * k) 8)) ∧
    (s.memRead 0x08).toNat = s.ctr.toNat / 2 ^ 32 ∧ (s.memRead 0x09).toNat = s.ctr.toNat % 2 ^ 32

/-! ### The digit extractor -/

/-- R160, R161, R162. `DIG_EXT`: the checks in order, each with its whole next state; else the truncation of the digest
by its last byte, the code, and its characters; nothing but the code registers and the result changes. -/
def Obligations.DigExtByCase : Prop :=
  encode .digExt = 0x20000000 ∧
  ∀ s : State,
    let d := s.ctrl.digits.toNat
    let len := s.digestLen.toNat
    (d < 1 ∨ 10 < d → ∃ t, exec .digExt s = .next t ∧ CodeGone t ∧
      t = { s with offset := 0, trunc := 0, code := 0, ascii := t.ascii, codeValid := false,
                   err := .cfgDigits, errChar := 0 }) ∧
    (1 ≤ d → d ≤ 10 → len < 20 ∨ 64 < len → ∃ t, exec .digExt s = .next t ∧ CodeGone t ∧
      t = { s with offset := 0, trunc := 0, code := 0, ascii := t.ascii, codeValid := false,
                   err := .digestLenBad, errChar := 0 }) ∧
    (1 ≤ d → d ≤ 10 → 20 ≤ len → len ≤ 64 → ∃ t, exec .digExt s = .next t ∧
      (let off := (byteAt s.digest (len - 1) &&& 0x0F).toNat
       t.offset.toNat = off ∧
       t.memRead 0x0D = be32 (byteAt s.digest off) (byteAt s.digest (off + 1)) (byteAt s.digest (off + 2))
         (byteAt s.digest (off + 3)) &&& 0x7FFFFFFF) ∧
      t.code.toNat = t.trunc.toNat % 10 ^ d ∧
      (∀ j, j < d → (byteAt t.ascii j).toNat = 0x30 + t.code.toNat / 10 ^ (d - 1 - j) % 10) ∧
      (∀ j, d ≤ j → byteAt t.ascii j = 0) ∧
      t = { s with offset := t.offset, trunc := t.trunc, code := t.code, ascii := t.ascii, codeValid := true,
                   err := .ok, errChar := 0 })

/-- R162, R39. The characters are digits, and read in decimal, most significant first, they give `CODE` back: no digit is
lost and the leading zeros are there. -/
def Obligations.AsciiReadsBackAsCode : Prop :=
  ∀ s : State, s.digitsLegal = true → digestLenLegal s.digestLen.toNat = true →
    ∃ t, exec .digExt s = .next t ∧
      (∀ j, j < s.ctrl.digits.toNat → 0x30 ≤ (byteAt t.ascii j).toNat ∧ (byteAt t.ascii j).toNat ≤ 0x39) ∧
      (List.range s.ctrl.digits.toNat).foldl (fun n j => n * 10 + ((byteAt t.ascii j).toNat - 0x30)) 0 = t.code.toNat

/-- R164 (the spec's own derivation), R35. The truncation reads bytes 0..18 and the digest's last byte, which is none of the four read: two states
whose digests agree there, of one legal length, and whose `DIGITS` agree give the same code registers. -/
def Obligations.ExtractionReadsInsideDigest : Prop :=
  ∀ s1 s2 : State, s1.digitsLegal = true → digestLenLegal s1.digestLen.toNat = true →
    s2.digestLen = s1.digestLen → s2.ctrl.digits = s1.ctrl.digits →
    (∀ i, i < 19 ∨ i = s1.digestLen.toNat - 1 → byteAt s1.digest i = byteAt s2.digest i) →
    ∃ t1 t2, exec .digExt s1 = .next t1 ∧ exec .digExt s2 = .next t2 ∧
      t1.offset = (byteAt s1.digest (s1.digestLen.toNat - 1)).setWidth 4 ∧
      t1.offset.toNat + 3 ≤ 18 ∧ t1.offset.toNat + 3 < s1.digestLen.toNat - 1 ∧
      t1.offset = t2.offset ∧ t1.trunc = t2.trunc ∧ t1.code = t2.code ∧ t1.ascii = t2.ascii

/-- R165 (the spec's own derivation). Values of the extraction: (a) four bytes 0xFF, (b) ten digits, (c) one digit, (d) leading zeros. -/
def Obligations.ExtractionValues : Prop :=
  ∀ s t : State, s.digitsLegal = true → digestLenLegal s.digestLen.toNat = true → exec .digExt s = .next t →
    ((∀ k, k < 4 → byteAt s.digest (t.offset.toNat + k) = 0xFF) → t.trunc.toNat = 2147483647) ∧
    (s.ctrl.digits = 10 → t.code.toNat = t.trunc.toNat) ∧
    (s.ctrl.digits = 1 → t.code.toNat = t.trunc.toNat % 10 ∧ byteAt t.ascii 1 = 0) ∧
    (t.trunc.toNat < 10 ^ (s.ctrl.digits.toNat - 1) → byteAt t.ascii 0 = 0x30) ∧
    (t.trunc = 0 → ∀ j, j < s.ctrl.digits.toNat → byteAt t.ascii j = 0x30) ∧
    t.code.toNat < 10 ^ s.ctrl.digits.toNat ∧ t.code.toNat < 2 ^ 31

/-- R61. The word read of `DIGEST` at a 4-aligned offset is the truncation read there. -/
def Obligations.DigestWordIsTruncationRead : Prop :=
  ∀ s : State, s.digitsLegal = true → digestLenLegal s.digestLen.toNat = true →
    (truncOffset s.digest s.digestLen.toNat).toNat % 4 = 0 →
    ∃ t, exec .digExt s = .next t ∧
      t.memRead 0x0D = s.memRead (BitVec.ofNat 6 (0x30 + t.offset.toNat / 4)) &&& 0x7FFFFFFF

/-! ### The sequencer and the hash port -/

/-- R180. `GENERATE`, phase 1: the checks in order, each with what it clears and discards; else the counter and the hash
request `(ALG, KEY[0..KEY_LEN-1], BE8(CTR))`, with `BUSY` set. -/
def Obligations.GenerateByCase : Prop :=
  encode .generate = 0x30000000 ∧
  ∀ s : State,
    let failed (keep : Bool) (code : ResultCode) : State :=
      { s with offset := 0, trunc := 0, code := 0, ascii := Vector.replicate 12 0, codeValid := false,
               ctrHi := 0, ctrLo := 0, remain := 0, err := code, errChar := 0,
               dec := if keep then s.dec else
                 { dstate := .opened, peq := false, nbits := 0, acc := 0, derr := .ok, dchar := 0 },
               keyLen := if keep then s.keyLen else 0,
               key := if keep then s.key else Vector.replicate 64 0 }
    (s.dec.dstate ≠ .done → exec .generate s = .next (failed true .noKey)) ∧
    (s.dec.dstate = .done → s.stepSeconds = 0 → exec .generate s = .next (failed false .cfgStepZero)) ∧
    (s.dec.dstate = .done → s.stepSeconds ≠ 0 → s.ctrl.digits.toNat < 1 ∨ 10 < s.ctrl.digits.toNat →
      exec .generate s = .next (failed false .cfgDigits)) ∧
    (s.dec.dstate = .done → s.stepSeconds ≠ 0 → 1 ≤ s.ctrl.digits.toNat → s.ctrl.digits.toNat ≤ 10 → s.keyLen = 0 →
      exec .generate s = .next (failed false .cryptoEmptyKey)) ∧
    (s.dec.dstate = .done → s.stepSeconds ≠ 0 → 1 ≤ s.ctrl.digits.toNat → s.ctrl.digits.toNat ≤ 10 → s.keyLen ≠ 0 →
      ∃ t, exec .generate s = .next t ∧
        t.hreq = some { alg := s.ctrl.alg, key := s.key.toList.take s.keyLen.toNat, msg := be8 t.ctr } ∧
        t.ctr.toNat = s.time.toNat / s.stepSeconds.toNat ∧
        t.remain.toNat = s.stepSeconds.toNat - s.time.toNat % s.stepSeconds.toNat ∧ CodeGone t ∧
        t = { s with offset := 0, trunc := 0, code := 0, ascii := t.ascii, codeValid := false, ctrHi := t.ctrHi,
                     ctrLo := t.ctrLo, remain := t.remain, hreq := t.hreq, busy := true, err := .ok, errChar := 0 })

/-- R182. The hash agent's `OK` answer, `g = hmac(alg, key, msg)`: with 20 to 64 bytes, and `DIGITS` as phase
1 checked it, the digest is stored, the code is extracted from it, and the result is `OK`; with another length digest and
counter are cleared and the result is `DIGEST_LEN_BAD`. Either way the key is discarded and the request is over. -/
def Obligations.HashOkAnswer : Prop :=
  ∀ (s s0 : State) (q : HashRequest), s.hreq = some q → AgentMoves s .hashOk s0 →
    let g := s.hmac q
    let d := s.ctrl.digits.toNat
    (g.length < 20 ∨ 64 < g.length → ∃ t, step s = .next t ∧ KeyGone t ∧
      (∀ i, byteAt t.digest i = 0) ∧
      t = { s0 with digest := t.digest, digestLen := 0, ctrHi := 0, ctrLo := 0, remain := 0, dec := t.dec,
                    keyLen := 0, key := t.key, hreq := none, busy := false, err := .digestLenBad, errChar := 0 }) ∧
    (20 ≤ g.length → g.length ≤ 64 → 1 ≤ d → d ≤ 10 → ∃ t, step s = .next t ∧ KeyGone t ∧
      (∀ i, byteAt t.digest i = g.getD i 0) ∧ t.digestLen.toNat = g.length ∧
      t.offset.toNat = (g.getD (g.length - 1) 0).toNat % 16 ∧
      t.trunc.toNat = Reference.truncate g ∧ t.code.toNat = Reference.truncate g % 10 ^ d ∧
      (∀ j, byteAt t.ascii j = (Reference.codeString g d).getD j 0) ∧
      t = { s0 with digest := t.digest, digestLen := t.digestLen, offset := t.offset, trunc := t.trunc, code := t.code,
                    ascii := t.ascii, codeValid := true, dec := t.dec, keyLen := 0, key := t.key,
                    hreq := none, busy := false, err := .ok, errChar := 0 })

/-- R183. The hash agent's `FAIL` answer clears digest, counter and code, discards the key, ends the request and records
`CRYPTO_HASH_FAIL`. -/
def Obligations.HashFailAnswer : Prop :=
  ∀ (s s0 : State) (q : HashRequest), s.hreq = some q → AgentMoves s .hashFail s0 →
    ∃ t, step s = .next t ∧ KeyGone t ∧ CodeGone t ∧ (∀ i, byteAt t.digest i = 0) ∧
      t = { s0 with digest := t.digest, digestLen := 0, ctrHi := 0, ctrLo := 0, remain := 0, offset := 0, trunc := 0,
                    code := 0, ascii := t.ascii, codeValid := false, dec := t.dec, keyLen := 0, key := t.key,
                    hreq := none, busy := false, err := .cryptoHashFail, errChar := 0 }

/-- R189, R8. With a hash agent whose fixed points agree with "20 bytes for SHA-1", an `OK` answer at `ALG` = 0 has 20
bytes, so it always ends in a code. -/
def Obligations.Sha1AnswerGivesCode : Prop :=
  ∀ (s s0 : State) (q : HashRequest), HashAgentConforms s → RequestInv s → s.hreq = some q → q.alg = 0 →
    AgentMoves s .hashOk s0 →
    (s.hmac q).length = 20 ∧
    ∃ t, step s = .next t ∧ t.err = .ok ∧ t.codeValid = true ∧ t.digestLen = 20 ∧ t.remain = s.remain

/-- R190. Without an outstanding request the hash agent's step changes nothing, and after either reset no request is
outstanding; that its turn then passes is the model's reading (log 5). -/
def Obligations.NoRequestNoAnswer : Prop :=
  (∀ s s0 : State, s.hreq = none → AgentMoves s .hashOk s0 ∨ AgentMoves s .hashFail s0 → step s = .next s0) ∧
  (∀ s s0 : State, AgentMoves s .hardReset s0 → ∃ t, step s = .next t ∧ t.hreq = none) ∧
  (∀ s : State, ∃ t, exec .reset s = .next t ∧ t.hreq = none)

/-- R181, R71, R188. While a request is outstanding the host's accesses change no register and not the request, so its
contents cannot change and `BUSY` stays 1 until an answer or a hardware reset. -/
def Obligations.BusyFreezesRegisters : Prop :=
  ∀ s t : State, s.busy = true → (s.turns = [] ∨ ∃ ts, s.turns = .host :: ts) → step s = .next t →
    t.busy = true ∧ t.hreq = s.hreq ∧ t.hashPoints = s.hashPoints ∧ ∀ idx, t.memRead idx = s.memRead idx

/-- R184. The key is discarded on every outcome of `GENERATE` but `NO_KEY`, which leaves the decoder as it is. -/
def Obligations.KeyDiscardedOnEveryOutcome : Prop :=
  ∀ s : State,
    (s.dec.dstate ≠ .done → ∃ t, exec .generate s = .next t ∧ t.err = .noKey ∧
      t.dec = s.dec ∧ t.keyLen = s.keyLen ∧ t.key = s.key ∧ t.hreq = s.hreq) ∧
    (s.dec.dstate = .done → ∃ t, exec .generate s = .next t ∧
      (t.err ≠ .ok → KeyGone t) ∧ (t.err = .ok → t.hreq ≠ none ∧ t.busy = true)) ∧
    (∀ s0, s.hreq ≠ none → AgentMoves s .hashOk s0 ∨ AgentMoves s .hashFail s0 → ∃ t, step s = .next t ∧ KeyGone t)

/-- R247, R244. One key, one code: after an answer the next `GENERATE` records `NO_KEY`, shows no code and issues no
request. -/
def Obligations.OneKeyOneCode : Prop :=
  ∀ s s0 : State, s.hreq ≠ none → AgentMoves s .hashOk s0 ∨ AgentMoves s .hashFail s0 →
    ∃ t u, step s = .next t ∧ exec .generate t = .next u ∧ u.err = .noKey ∧ u.hreq = none ∧ u.busy = false ∧ CodeGone u

/-- R180, R107. No request with an empty key is ever made, whatever `EMPTY_ERR` is: a step that issues a request issues
one whose key is the `KEY_LEN` bytes of `KEY`, at least one and at most 64. -/
def Obligations.EmptyKeyNeverHashed : Prop :=
  ∀ (s t : State) (q : HashRequest), BlockInv s → s.hreq = none → step s = .next t → t.hreq = some q →
    q.key ≠ [] ∧ q.key = s.keyBytes ∧ q.key.length = s.keyLen.toNat ∧ q.key.length ≤ 64 ∧ q.msg.length = 8

/-- R214 (the spec's own derivation). After a failing command no result register holds a partial or stale result. -/
def Obligations.NoPartialResults : Prop :=
  (∀ (s t : State) (i : Instr), (i = .ctrGen ∨ i = .digExt ∨ i = .generate) → exec i s = .next t → t.err ≠ .ok →
    CodeGone t ∧ (i ≠ .digExt → t.ctr = 0 ∧ t.remain = 0)) ∧
  (∀ (s t : State) (i : Instr), (i = .decEnd ∨ ∃ c, i = .decChar c) → s.dec.dstate = .opened →
    exec i s = .next t → t.err ≠ .ok → t.dec.dstate = .error ∧ t.keyLen = 0 ∧ ∀ k, byteAt t.key k = 0) ∧
  (∀ s s0 t : State, BlockInv s → RequestInv s → s.hreq ≠ none → AgentMoves s .hashOk s0 ∨ AgentMoves s .hashFail s0 →
    step s = .next t → t.err ≠ .ok →
    CodeGone t ∧ t.ctr = 0 ∧ t.remain = 0 ∧ t.digestLen = 0 ∧ ∀ k, byteAt t.digest k = 0)

/-- R191 (the spec's own derivation). The code is a function of the key, the counter, `ALG`, `DIGITS` and the hash answer: two `GENERATE`s with equal
keys, `ALG`, `DIGITS` and `STEP`, at times in one window, that meet one hash primitive and are answered `OK`, give equal
codes; their `REMAIN` values differ when the times differ. -/
def Obligations.SameWindowSameCode : Prop :=
  ∀ s1 s2 : State, s1.dec.dstate = .done → s2.dec.dstate = .done → s1.stepSeconds ≠ 0 → s1.digitsLegal = true →
    s1.keyLen ≠ 0 → s2.keyLen = s1.keyLen → s2.keyBytes = s1.keyBytes → s2.ctrl = s1.ctrl →
    s2.stepSeconds = s1.stepSeconds → s2.hashPoints = s1.hashPoints →
    s1.time.toNat / s1.stepSeconds.toNat = s2.time.toNat / s1.stepSeconds.toNat →
    ∃ u1 u2, exec .generate s1 = .next u1 ∧ exec .generate s2 = .next u2 ∧
      ∃ v1 v2, step { u1 with turns := [.hashOk] } = .next v1 ∧ step { u2 with turns := [.hashOk] } = .next v2 ∧
        v1.err = v2.err ∧ v1.code = v2.code ∧ v1.ascii = v2.ascii ∧
        (v1.err = .ok → s1.time ≠ s2.time → v1.remain ≠ v2.remain)

/-- R87, R161, R180, R182. `generate` followed by `wait.idle` computes the source's `computeCode`, wherever between the
host's polls the `OK` answer lands: the code string of the digest `hmac(ALG, KEY, BE8(floor(T/S)))` and the seconds
remaining of the same time sample. One poll of `wait.idle` is one step (log 16). -/
def Obligations.GenerateComputesCode : Prop :=
  ∀ (s : State) (n : Nat) (rest : List HostAccess) (c : DWord),
    s.busy = false → s.dec.dstate = .done → s.stepSeconds ≠ 0 → s.digitsLegal = true → s.keyLen ≠ 0 →
    c.toNat = s.time.toNat / s.stepSeconds.toNat →
    s.host = Asm.cmd .generate :: Asm.waitIdle :: rest →
    s.turns = .host :: (List.replicate n .host ++ [.hashOk]) →
    let g := s.hmac { alg := s.ctrl.alg, key := s.keyBytes, msg := be8 c }
    let d := s.ctrl.digits.toNat
    20 ≤ g.length → g.length ≤ 64 →
    ∃ t, RunsTo (n + 3) s t ∧ t.host = rest ∧ t.busy = false ∧ t.err = .ok ∧ t.codeValid = true ∧ t.hreq = none ∧
      t.code.toNat = Reference.truncate g % 10 ^ d ∧
      (∀ j, byteAt t.ascii j = (Reference.codeString g d).getD j 0) ∧
      t.remain.toNat = s.stepSeconds.toNat - s.time.toNat % s.stepSeconds.toNat ∧ t.ctr = c ∧ KeyGone t ∧
      t.hostRead = some 0x00000002

/-- R188, R87. `wait.idle` ends once the hash agent takes its step, whichever answer it gives and however many polls come
before; the last poll reads `BUSY` = 0. -/
def Obligations.WaitIdleEndsAfterAnswer : Prop :=
  ∀ (s : State) (q : HashRequest) (n : Nat) (rest : List HostAccess) (a : Turn),
    s.busy = true → s.hreq = some q → (a = .hashOk ∨ a = .hashFail) → s.host = .waitIdle :: rest →
    s.turns = List.replicate n .host ++ [a] →
    ∃ t, RunsTo (n + 2) s t ∧ t.busy = false ∧ t.hreq = none ∧ t.host = rest ∧
      t.hostRead = some (t.memRead 0x01) ∧ (t.memRead 0x01).getLsbD 0 = false

/-- R185. `NOP` changes no state and records no result, busy or not; `0x000000nn` with `nn` not 0 is no `NOP`. -/
def Obligations.NopChangesNothing : Prop :=
  encode .nop = 0x00000000 ∧ (∀ s : State, exec .nop s = .next s) ∧
  (∀ s s0 : State, HostMoves s (.write 0x00 0x00000000) s0 → step s = .next s0 ∧ s0.memRead 0x01 = s.memRead 0x01) ∧
  (∀ c : Byte, c ≠ 0 → decode (c.setWidth 32) = .error .unusedArg)

/-! ### Whole-machine rules -/

/-- R27, R25, R26, R218. The block never changes its inputs `CTRL`, `STEP`, `TIME_HI` and `TIME_LO`: a step that changes
one is a host write to that register while `BUSY` = 0, which leaves the word written (without `CTRL`'s reserved bits), the
`RESET` command, or the hardware reset. -/
def Obligations.InputsChangeOnlyByHost : Prop :=
  ∀ (s t : State) (idx : RegIdx), (idx = 0x02 ∨ idx = 0x03 ∨ idx = 0x04 ∨ idx = 0x05) → step s = .next t →
    t.memRead idx ≠ s.memRead idx →
    (∃ s0, AgentMoves s .hardReset s0) ∨
    (s.busy = false ∧
      ((∃ w s0, HostMoves s (.write idx w) s0 ∧ t.memRead idx = if idx = 0x02 then w &&& 0x000003F1 else w) ∨
       ∃ s0, HostMoves s (.write 0x00 0xFF000000) s0))

/-- R24, R160, R182. `CODE_VALID` rises only in a step that performs `DIG_EXT` or answers the outstanding request `OK`,
and that step records `OK`. -/
def Obligations.CodeValidOnlyByExtraction : Prop :=
  ∀ s t : State, step s = .next t → s.codeValid = false → t.codeValid = true →
    t.err = .ok ∧
    ((∃ s0, AgentMoves s .hashOk s0 ∧ s.hreq ≠ none) ∨ (s.busy = false ∧ ∃ s0, HostMoves s (.write 0x00 0x20000000) s0))

/-- The registers a command may change, from R105, R106, R107, R140, R160, R180 (phase 1), R185. Every other register, and
what the agents hold, is unchanged; the outstanding request changes only by `GENERATE`. -/
def Obligations.CommandFrames : Prop :=
  ∀ (i : Instr) (s t : State), exec i s = .next t → i ≠ .reset →
    let changes : List Nat :=
      match i with
      | .nop => []
      | .decClr => [0x01, 0x06, 0x07] ++ List.range' 0x20 16
      | .decChar _ => [0x01, 0x06, 0x07] ++ List.range' 0x20 16
      | .decEnd => [0x01, 0x06, 0x07] ++ List.range' 0x20 16
      | .ctrGen => [0x01, 0x08, 0x09, 0x0A, 0x0C, 0x0D, 0x0E, 0x0F, 0x10, 0x11]
      | .digExt => [0x01, 0x0C, 0x0D, 0x0E, 0x0F, 0x10, 0x11]
      | .generate => [0x01, 0x06, 0x07, 0x08, 0x09, 0x0A, 0x0C, 0x0D, 0x0E, 0x0F, 0x10, 0x11] ++ List.range' 0x20 16
      | .reset => []
    (∀ idx : RegIdx, idx.toNat ∉ changes → t.memRead idx = s.memRead idx) ∧ SameAgents s t ∧
    (i ≠ .generate → t.hreq = s.hreq ∧ t.busy = s.busy)

/-- R106, R104. The frame of the key buffer while text is fed: an accepted character leaves every key byte but
`KEY[KEY_LEN]` as it was, and `KEY_LEN` grows by at most one. -/
def Obligations.AcceptedCharacterKeepsKey : Prop :=
  ∀ (s t : State) (c : Byte), BlockInv s → s.dec.dstate = .opened → exec (.decChar c) s = .next t → t.err = .ok →
    (∀ i, i ≠ s.keyLen.toNat → byteAt t.key i = byteAt s.key i) ∧
    (t.keyLen = s.keyLen ∨ t.keyLen.toNat = s.keyLen.toNat + 1) ∧ t.dec.dstate = .opened

/-- R183, R184. A failed request leaves no trace of the key: two states that differ only in the key, the decoder, the
request and the result registers go to one state. -/
def Obligations.FailedRequestForgetsKey : Prop :=
  ∀ s1 s2 : State, s1.hreq ≠ none → s2.hreq ≠ none → (∃ ts, s1.turns = .hashFail :: ts) →
    s2.ctrl = s1.ctrl → s2.stepSeconds = s1.stepSeconds → s2.timeHi = s1.timeHi → s2.timeLo = s1.timeLo →
    SameAgents s1 s2 → ∃ t, step s1 = .next t ∧ step s2 = .next t

/-- R245. The two halves of `TIME` may be written in either order, and then hold the time written. -/
def Obligations.TimeHalvesInEitherOrder : Prop :=
  ∀ (s : State) (v : DWord) (rest : List HostAccess), s.busy = false → s.turns = [] →
    ∃ t, RunsTo 2 { s with host := Asm.wrTime v ++ rest } t ∧
      RunsTo 2 { s with host := (Asm.wrTime v).reverse ++ rest } t ∧ t.time = v ∧
      t = { s with host := rest, timeHi := t.timeHi, timeLo := t.timeLo }

/-- R87. `wr.digest` of at most 64 bytes stores the digest it names: its length and its bytes. -/
def Obligations.WrDigestStoresDigest : Prop :=
  ∀ (s : State) (g : List Byte), g.length ≤ 64 → s.busy = false → s.turns = [] → s.host = Asm.wrDigest g →
    ∃ t, RunsTo (1 + (g.length + 3) / 4) s t ∧ t.host = [] ∧ t.digestLen.toNat = g.length ∧
      (∀ i, i < g.length → byteAt t.digest i = g.getD i 0) ∧
      t = { s with host := [], digestLen := t.digestLen, digest := t.digest }

/-- R183, R180, R215. A request is issued only by the host's `GENERATE`: a step from no request to one is a host write of
`0x30000000` to `CMD` while `BUSY` = 0, and no step replaces an outstanding request by another. So the block never
re-issues a failed one. -/
def Obligations.RequestOnlyByGenerate : Prop :=
  ∀ (s t : State) (q : HashRequest), BlockInv s → step s = .next t → t.hreq = some q →
    s.hreq = some q ∨
    (s.hreq = none ∧ s.busy = false ∧ ∃ s0, HostMoves s (.write 0x00 0x30000000) s0)
end

