-- ==== Sys2Proof/Laws/Buffers.lean ====
section
/-! SUPPORT. What the byte buffers and their word windows read after an update (spec/20_memory.md R61 to R63). -/

namespace Sys2Proof.Machine

theorem byteAt_eq_getElem {n : Nat} (v : Vector Byte n) {i : Nat} (h : i < n) : byteAt v i = v[i] := by
  simp [byteAt, h]

/-- Past its end a buffer reads 0. -/
theorem byteAt_of_le {n : Nat} (v : Vector Byte n) {i : Nat} (h : n ≤ i) : byteAt v i = 0 := by
  simp [byteAt, h]

/-- Two buffers with the same bytes are the same buffer. -/
theorem buffer_ext {n : Nat} {v w : Vector Byte n} (h : ∀ i, byteAt v i = byteAt w i) : v = w := by
  refine Vector.ext fun i hi => ?_
  simpa [byteAt, hi] using h i

@[simp] theorem byteAt_replicate_zero (n i : Nat) : byteAt (Vector.replicate n 0#8) i = 0#8 := by
  by_cases h : i < n
  · rw [byteAt_eq_getElem _ h]; simp
  · exact byteAt_of_le _ (Nat.le_of_not_lt h)

theorem byteAt_bytesOf (n : Nat) (f : Nat → Byte) (i : Nat) :
    byteAt (bytesOf n f) i = if i < n then f i else 0 := by
  by_cases h : i < n <;> simp [byteAt, bytesOf, h]

theorem byteAt_set {n : Nat} (v : Vector Byte n) (i j : Nat) (b : Byte) :
    byteAt (v.setIfInBounds i b) j = if i = j ∧ j < n then b else byteAt v j := by
  by_cases hj : j < n
  · by_cases hij : i = j <;> simp [byteAt, hj, hij]
  · simp [byteAt, hj]

/-- A buffer holds nothing but zeros exactly when it is the zero buffer. -/
theorem eq_replicate_zero_iff {n : Nat} (v : Vector Byte n) :
    v = Vector.replicate n 0 ↔ ∀ i, byteAt v i = 0 := by
  constructor
  · rintro rfl i; exact byteAt_replicate_zero n i
  · intro h; exact buffer_ext fun i => by exact (h i).trans (byteAt_replicate_zero n i).symm

/-! ### Windows -/

/-- The bits of a big-endian word. -/
theorem be32_getLsbD (b0 b1 b2 b3 : Byte) (i : Nat) : (be32 b0 b1 b2 b3).getLsbD i =
    if i < 8 then b3.getLsbD i else if i < 16 then b2.getLsbD (i - 8)
    else if i < 24 then b1.getLsbD (i - 16) else b0.getLsbD (i - 24) := by
  show (b0 ++ b1 ++ b2 ++ b3 : BitVec (8 + 8 + 8 + 8)).getLsbD i = _
  simp only [BitVec.getLsbD_append]
  have e1 : i - 8 < 8 ↔ i < 16 ∨ i < 8 := by omega
  have e2 : i - 8 - 8 < 8 ↔ i < 24 ∨ i < 8 := by omega
  split_ifs <;> first | rfl | (exfalso; omega)

theorem be32_bytes (b0 b1 b2 b3 : Byte) :
    (be32 b0 b1 b2 b3).extractLsb' 24 8 = b0 ∧ (be32 b0 b1 b2 b3).extractLsb' 16 8 = b1 ∧
    (be32 b0 b1 b2 b3).extractLsb' 8 8 = b2 ∧ (be32 b0 b1 b2 b3).extractLsb' 0 8 = b3 := by
  refine ⟨?_, ?_, ?_, ?_⟩ <;>
    (apply BitVec.eq_of_getLsbD_eq; intro i hi
     interval_cases i <;> simp only [BitVec.getLsbD_extractLsb', be32_getLsbD] <;> rfl)

/-- A word is its four bytes. -/
theorem be32_of_word (w : Word) :
    be32 (w.extractLsb' 24 8) (w.extractLsb' 16 8) (w.extractLsb' 8 8) (w.extractLsb' 0 8) = w := by
  apply BitVec.eq_of_getLsbD_eq; intro i hi
  interval_cases i <;> simp only [be32_getLsbD, BitVec.getLsbD_extractLsb'] <;> rfl

/-- The value of a big-endian word. -/
theorem be32_toNat (b0 b1 b2 b3 : Byte) :
    (be32 b0 b1 b2 b3).toNat = b0.toNat * 2 ^ 24 + b1.toNat * 2 ^ 16 + b2.toNat * 2 ^ 8 + b3.toNat := by
  have h0 := b0.isLt; have h1 := b1.isLt; have h2 := b2.isLt; have h3 := b3.isLt
  simp only [be32, BitVec.toNat_append]
  rw [← Nat.shiftLeft_add_eq_or_of_lt h1, ← Nat.shiftLeft_add_eq_or_of_lt h2, ← Nat.shiftLeft_add_eq_or_of_lt h3]
  simp only [Nat.shiftLeft_eq]; omega

theorem byteAt_windowSet {n : Nat} (v : Vector Byte n) (k i : Nat) (w : Word) (hk : 4 * k + 3 < n) :
    byteAt (windowSet v k w) i = if i / 4 = k then w.extractLsb' (24 - 8 * (i % 4)) 8 else byteAt v i := by
  simp only [windowSet, byteAt_set]
  by_cases h : i / 4 = k
  · have hr : i = 4 * k ∨ i = 4 * k + 1 ∨ i = 4 * k + 2 ∨ i = 4 * k + 3 := by omega
    rw [if_pos h]
    obtain e | e | e | e := hr
    · have : i % 4 = 0 := by omega
      rw [this]; split_ifs <;> first | rfl | omega
    · have : i % 4 = 1 := by omega
      rw [this]; split_ifs <;> first | rfl | omega
    · have : i % 4 = 2 := by omega
      rw [this]; split_ifs <;> first | rfl | omega
    · have : i % 4 = 3 := by omega
      rw [this]; split_ifs <;> first | rfl | omega
  · have h0 : 4 * k ≠ i := by omega
    have h1 : 4 * k + 1 ≠ i := by omega
    have h2 : 4 * k + 2 ≠ i := by omega
    have h3 : 4 * k + 3 ≠ i := by omega
    simp [h, h0, h1, h2, h3]

theorem windowWord_windowSet {n : Nat} (v : Vector Byte n) (k j : Nat) (w : Word) (hk : 4 * k + 3 < n) :
    windowWord (windowSet v k w) j = if j = k then w else windowWord v j := by
  simp only [windowWord, byteAt_windowSet _ _ _ _ hk]
  have h0 : 4 * j / 4 = j := by omega
  have h1 : (4 * j + 1) / 4 = j := by omega
  have h2 : (4 * j + 2) / 4 = j := by omega
  have h3 : (4 * j + 3) / 4 = j := by omega
  by_cases h : j = k
  · subst h
    simp only [h0, h1, h2, h3, if_pos, Nat.mul_add_mod, Nat.mul_mod_right]
    exact be32_of_word w
  · simp [h0, h1, h2, h3, h]

end Sys2Proof.Machine
end

