-- ==== Sys2Proof/Laws/Encoding.lean ====
section
/-! SUPPORT. The fields of a command word (spec/30_encoding.md R80) and what the decoder reads from them (R85). -/

namespace Sys2Proof

/-- The bits of a command word laid out from its fields. -/
theorem cmdWord_getLsbD (o a : Byte) (r : BitVec 16) (i : Nat) : (o ++ r ++ a : Word).getLsbD i =
    if i < 8 then a.getLsbD i else if i < 24 then r.getLsbD (i - 8) else o.getLsbD (i - 24) := by
  show (o ++ r ++ a : BitVec (8 + 16 + 8)).getLsbD i = _
  simp only [BitVec.getLsbD_append]
  split_ifs <;> first | rfl | (exfalso; omega)

/-- A word is its three fields. -/
theorem word_of_fields (w : Word) : opField w ++ rsvField w ++ argField w = w := by
  apply BitVec.eq_of_getLsbD_eq; intro i hi
  interval_cases i <;> simp only [cmdWord_getLsbD, BitVec.getLsbD_extractLsb'] <;> rfl

/-- The fields of a word laid out from fields. -/
theorem fields_of_cmdWord (o a : Byte) (r : BitVec 16) :
    opField (o ++ r ++ a) = o ∧ rsvField (o ++ r ++ a) = r ∧ argField (o ++ r ++ a) = a := by
  refine ⟨?_, ?_, ?_⟩ <;>
    (apply BitVec.eq_of_getLsbD_eq; intro i hi
     interval_cases i <;> simp only [cmdWord_getLsbD, BitVec.getLsbD_extractLsb'] <;> rfl)

/-- Two words with the same fields are the same word. -/
theorem word_ext_fields {w v : Word} (ho : opField w = opField v) (hr : rsvField w = rsvField v)
    (ha : argField w = argField v) : w = v := by
  rw [← word_of_fields w, ho, hr, ha, word_of_fields]

/-- The fields of an encoded command. -/
theorem encode_fields (i : Instr) :
    opField (encode i) = i.op ∧ rsvField (encode i) = 0 ∧ argField (encode i) = i.arg :=
  fields_of_cmdWord i.op i.arg 0

theorem decodeBare_ok {i j : Instr} {a : Byte} (h : decodeBare i a = .ok j) : a = 0 ∧ j = i := by
  unfold decodeBare at h
  split at h
  · cases h; exact ⟨by assumption, rfl⟩
  · cases h

/-- What the decoder accepts has the fields of the command it answers. -/
theorem decode_fields {w : Word} {i : Instr} (h : decode w = .ok i) :
    opField w = i.op ∧ rsvField w = 0 ∧ argField w = i.arg := by
  unfold decode at h
  split at h
  · cases h
  · next hr =>
    have hr : rsvField w = 0 := by simpa using hr
    have op_eq : ∀ {n : Nat}, (opField w).toNat = n → ∀ b : Byte, b.toNat = n → opField w = b :=
      fun h b hb => BitVec.eq_of_toNat_eq (h.trans hb.symm)
    split at h
    all_goals first
      | (cases h; done)
      | (next hn => obtain ⟨h0, rfl⟩ := decodeBare_ok h; exact ⟨op_eq hn _ rfl, hr, h0⟩)
      | (next hn => cases h; exact ⟨op_eq hn _ rfl, hr, rfl⟩)

end Sys2Proof
end

