-- ==== Sys2Proof/Laws/State.lean ====
section
/-! SUPPORT. What each shared operation leaves in each field of State: one lemma per field per update, true by rfl.
No later proof unfolds a record update. -/

namespace Sys2Proof.Machine.State

/-! ### `raiseError` (R210) -/

@[simp] theorem raiseError_busy (s : State) (c : ResultCode) (ch : Byte) : (s.raiseError c ch).busy = s.busy := rfl
@[simp] theorem raiseError_codeValid (s : State) (c : ResultCode) (ch : Byte) : (s.raiseError c ch).codeValid = s.codeValid := rfl
@[simp] theorem raiseError_err (s : State) (c : ResultCode) (ch : Byte) : (s.raiseError c ch).err = c := rfl
@[simp] theorem raiseError_errChar (s : State) (c : ResultCode) (ch : Byte) : (s.raiseError c ch).errChar = ch := rfl
@[simp] theorem raiseError_ctrl (s : State) (c : ResultCode) (ch : Byte) : (s.raiseError c ch).ctrl = s.ctrl := rfl
@[simp] theorem raiseError_stepSeconds (s : State) (c : ResultCode) (ch : Byte) : (s.raiseError c ch).stepSeconds = s.stepSeconds := rfl
@[simp] theorem raiseError_timeHi (s : State) (c : ResultCode) (ch : Byte) : (s.raiseError c ch).timeHi = s.timeHi := rfl
@[simp] theorem raiseError_timeLo (s : State) (c : ResultCode) (ch : Byte) : (s.raiseError c ch).timeLo = s.timeLo := rfl
@[simp] theorem raiseError_dec (s : State) (c : ResultCode) (ch : Byte) : (s.raiseError c ch).dec = s.dec := rfl
@[simp] theorem raiseError_keyLen (s : State) (c : ResultCode) (ch : Byte) : (s.raiseError c ch).keyLen = s.keyLen := rfl
@[simp] theorem raiseError_key (s : State) (c : ResultCode) (ch : Byte) : (s.raiseError c ch).key = s.key := rfl
@[simp] theorem raiseError_ctrHi (s : State) (c : ResultCode) (ch : Byte) : (s.raiseError c ch).ctrHi = s.ctrHi := rfl
@[simp] theorem raiseError_ctrLo (s : State) (c : ResultCode) (ch : Byte) : (s.raiseError c ch).ctrLo = s.ctrLo := rfl
@[simp] theorem raiseError_remain (s : State) (c : ResultCode) (ch : Byte) : (s.raiseError c ch).remain = s.remain := rfl
@[simp] theorem raiseError_digestLen (s : State) (c : ResultCode) (ch : Byte) : (s.raiseError c ch).digestLen = s.digestLen := rfl
@[simp] theorem raiseError_digest (s : State) (c : ResultCode) (ch : Byte) : (s.raiseError c ch).digest = s.digest := rfl
@[simp] theorem raiseError_offset (s : State) (c : ResultCode) (ch : Byte) : (s.raiseError c ch).offset = s.offset := rfl
@[simp] theorem raiseError_trunc (s : State) (c : ResultCode) (ch : Byte) : (s.raiseError c ch).trunc = s.trunc := rfl
@[simp] theorem raiseError_code (s : State) (c : ResultCode) (ch : Byte) : (s.raiseError c ch).code = s.code := rfl
@[simp] theorem raiseError_ascii (s : State) (c : ResultCode) (ch : Byte) : (s.raiseError c ch).ascii = s.ascii := rfl
@[simp] theorem raiseError_hreq (s : State) (c : ResultCode) (ch : Byte) : (s.raiseError c ch).hreq = s.hreq := rfl
@[simp] theorem raiseError_host (s : State) (c : ResultCode) (ch : Byte) : (s.raiseError c ch).host = s.host := rfl
@[simp] theorem raiseError_turns (s : State) (c : ResultCode) (ch : Byte) : (s.raiseError c ch).turns = s.turns := rfl
@[simp] theorem raiseError_hostRead (s : State) (c : ResultCode) (ch : Byte) : (s.raiseError c ch).hostRead = s.hostRead := rfl
@[simp] theorem raiseError_hashPoints (s : State) (c : ResultCode) (ch : Byte) : (s.raiseError c ch).hashPoints = s.hashPoints := rfl

/-! ### `recordOk` (R210) -/

@[simp] theorem recordOk_busy (s : State) : s.recordOk.busy = s.busy := rfl
@[simp] theorem recordOk_codeValid (s : State) : s.recordOk.codeValid = s.codeValid := rfl
@[simp] theorem recordOk_err (s : State) : s.recordOk.err = .ok := rfl
@[simp] theorem recordOk_errChar (s : State) : s.recordOk.errChar = 0 := rfl
@[simp] theorem recordOk_ctrl (s : State) : s.recordOk.ctrl = s.ctrl := rfl
@[simp] theorem recordOk_stepSeconds (s : State) : s.recordOk.stepSeconds = s.stepSeconds := rfl
@[simp] theorem recordOk_timeHi (s : State) : s.recordOk.timeHi = s.timeHi := rfl
@[simp] theorem recordOk_timeLo (s : State) : s.recordOk.timeLo = s.timeLo := rfl
@[simp] theorem recordOk_dec (s : State) : s.recordOk.dec = s.dec := rfl
@[simp] theorem recordOk_keyLen (s : State) : s.recordOk.keyLen = s.keyLen := rfl
@[simp] theorem recordOk_key (s : State) : s.recordOk.key = s.key := rfl
@[simp] theorem recordOk_ctrHi (s : State) : s.recordOk.ctrHi = s.ctrHi := rfl
@[simp] theorem recordOk_ctrLo (s : State) : s.recordOk.ctrLo = s.ctrLo := rfl
@[simp] theorem recordOk_remain (s : State) : s.recordOk.remain = s.remain := rfl
@[simp] theorem recordOk_digestLen (s : State) : s.recordOk.digestLen = s.digestLen := rfl
@[simp] theorem recordOk_digest (s : State) : s.recordOk.digest = s.digest := rfl
@[simp] theorem recordOk_offset (s : State) : s.recordOk.offset = s.offset := rfl
@[simp] theorem recordOk_trunc (s : State) : s.recordOk.trunc = s.trunc := rfl
@[simp] theorem recordOk_code (s : State) : s.recordOk.code = s.code := rfl
@[simp] theorem recordOk_ascii (s : State) : s.recordOk.ascii = s.ascii := rfl
@[simp] theorem recordOk_hreq (s : State) : s.recordOk.hreq = s.hreq := rfl
@[simp] theorem recordOk_host (s : State) : s.recordOk.host = s.host := rfl
@[simp] theorem recordOk_turns (s : State) : s.recordOk.turns = s.turns := rfl
@[simp] theorem recordOk_hostRead (s : State) : s.recordOk.hostRead = s.hostRead := rfl
@[simp] theorem recordOk_hashPoints (s : State) : s.recordOk.hashPoints = s.hashPoints := rfl

/-! ### `decClear` (R108) -/

@[simp] theorem decClear_busy (s : State) : s.decClear.busy = s.busy := rfl
@[simp] theorem decClear_codeValid (s : State) : s.decClear.codeValid = s.codeValid := rfl
@[simp] theorem decClear_err (s : State) : s.decClear.err = s.err := rfl
@[simp] theorem decClear_errChar (s : State) : s.decClear.errChar = s.errChar := rfl
@[simp] theorem decClear_ctrl (s : State) : s.decClear.ctrl = s.ctrl := rfl
@[simp] theorem decClear_stepSeconds (s : State) : s.decClear.stepSeconds = s.stepSeconds := rfl
@[simp] theorem decClear_timeHi (s : State) : s.decClear.timeHi = s.timeHi := rfl
@[simp] theorem decClear_timeLo (s : State) : s.decClear.timeLo = s.timeLo := rfl
@[simp] theorem decClear_dec (s : State) : s.decClear.dec = Decoder.cleared := rfl
@[simp] theorem decClear_keyLen (s : State) : s.decClear.keyLen = 0 := rfl
@[simp] theorem decClear_key (s : State) : s.decClear.key = Vector.replicate 64 0 := rfl
@[simp] theorem decClear_ctrHi (s : State) : s.decClear.ctrHi = s.ctrHi := rfl
@[simp] theorem decClear_ctrLo (s : State) : s.decClear.ctrLo = s.ctrLo := rfl
@[simp] theorem decClear_remain (s : State) : s.decClear.remain = s.remain := rfl
@[simp] theorem decClear_digestLen (s : State) : s.decClear.digestLen = s.digestLen := rfl
@[simp] theorem decClear_digest (s : State) : s.decClear.digest = s.digest := rfl
@[simp] theorem decClear_offset (s : State) : s.decClear.offset = s.offset := rfl
@[simp] theorem decClear_trunc (s : State) : s.decClear.trunc = s.trunc := rfl
@[simp] theorem decClear_code (s : State) : s.decClear.code = s.code := rfl
@[simp] theorem decClear_ascii (s : State) : s.decClear.ascii = s.ascii := rfl
@[simp] theorem decClear_hreq (s : State) : s.decClear.hreq = s.hreq := rfl
@[simp] theorem decClear_host (s : State) : s.decClear.host = s.host := rfl
@[simp] theorem decClear_turns (s : State) : s.decClear.turns = s.turns := rfl
@[simp] theorem decClear_hostRead (s : State) : s.decClear.hostRead = s.hostRead := rfl
@[simp] theorem decClear_hashPoints (s : State) : s.decClear.hashPoints = s.hashPoints := rfl

/-! ### `decFail` (R108) -/

@[simp] theorem decFail_busy (s : State) (c : ResultCode) (ch : Byte) : (s.decFail c ch).busy = s.busy := rfl
@[simp] theorem decFail_codeValid (s : State) (c : ResultCode) (ch : Byte) : (s.decFail c ch).codeValid = s.codeValid := rfl
@[simp] theorem decFail_err (s : State) (c : ResultCode) (ch : Byte) : (s.decFail c ch).err = c := rfl
@[simp] theorem decFail_errChar (s : State) (c : ResultCode) (ch : Byte) : (s.decFail c ch).errChar = ch := rfl
@[simp] theorem decFail_ctrl (s : State) (c : ResultCode) (ch : Byte) : (s.decFail c ch).ctrl = s.ctrl := rfl
@[simp] theorem decFail_stepSeconds (s : State) (c : ResultCode) (ch : Byte) : (s.decFail c ch).stepSeconds = s.stepSeconds := rfl
@[simp] theorem decFail_timeHi (s : State) (c : ResultCode) (ch : Byte) : (s.decFail c ch).timeHi = s.timeHi := rfl
@[simp] theorem decFail_timeLo (s : State) (c : ResultCode) (ch : Byte) : (s.decFail c ch).timeLo = s.timeLo := rfl
@[simp] theorem decFail_dec (s : State) (c : ResultCode) (ch : Byte) : (s.decFail c ch).dec = { Decoder.cleared with dstate := .error, derr := c, dchar := ch } := rfl
@[simp] theorem decFail_keyLen (s : State) (c : ResultCode) (ch : Byte) : (s.decFail c ch).keyLen = 0 := rfl
@[simp] theorem decFail_key (s : State) (c : ResultCode) (ch : Byte) : (s.decFail c ch).key = Vector.replicate 64 0 := rfl
@[simp] theorem decFail_ctrHi (s : State) (c : ResultCode) (ch : Byte) : (s.decFail c ch).ctrHi = s.ctrHi := rfl
@[simp] theorem decFail_ctrLo (s : State) (c : ResultCode) (ch : Byte) : (s.decFail c ch).ctrLo = s.ctrLo := rfl
@[simp] theorem decFail_remain (s : State) (c : ResultCode) (ch : Byte) : (s.decFail c ch).remain = s.remain := rfl
@[simp] theorem decFail_digestLen (s : State) (c : ResultCode) (ch : Byte) : (s.decFail c ch).digestLen = s.digestLen := rfl
@[simp] theorem decFail_digest (s : State) (c : ResultCode) (ch : Byte) : (s.decFail c ch).digest = s.digest := rfl
@[simp] theorem decFail_offset (s : State) (c : ResultCode) (ch : Byte) : (s.decFail c ch).offset = s.offset := rfl
@[simp] theorem decFail_trunc (s : State) (c : ResultCode) (ch : Byte) : (s.decFail c ch).trunc = s.trunc := rfl
@[simp] theorem decFail_code (s : State) (c : ResultCode) (ch : Byte) : (s.decFail c ch).code = s.code := rfl
@[simp] theorem decFail_ascii (s : State) (c : ResultCode) (ch : Byte) : (s.decFail c ch).ascii = s.ascii := rfl
@[simp] theorem decFail_hreq (s : State) (c : ResultCode) (ch : Byte) : (s.decFail c ch).hreq = s.hreq := rfl
@[simp] theorem decFail_host (s : State) (c : ResultCode) (ch : Byte) : (s.decFail c ch).host = s.host := rfl
@[simp] theorem decFail_turns (s : State) (c : ResultCode) (ch : Byte) : (s.decFail c ch).turns = s.turns := rfl
@[simp] theorem decFail_hostRead (s : State) (c : ResultCode) (ch : Byte) : (s.decFail c ch).hostRead = s.hostRead := rfl
@[simp] theorem decFail_hashPoints (s : State) (c : ResultCode) (ch : Byte) : (s.decFail c ch).hashPoints = s.hashPoints := rfl

/-! ### `keyDiscard` (R184) -/

@[simp] theorem keyDiscard_busy (s : State) : s.keyDiscard.busy = s.busy := rfl
@[simp] theorem keyDiscard_codeValid (s : State) : s.keyDiscard.codeValid = s.codeValid := rfl
@[simp] theorem keyDiscard_err (s : State) : s.keyDiscard.err = s.err := rfl
@[simp] theorem keyDiscard_errChar (s : State) : s.keyDiscard.errChar = s.errChar := rfl
@[simp] theorem keyDiscard_ctrl (s : State) : s.keyDiscard.ctrl = s.ctrl := rfl
@[simp] theorem keyDiscard_stepSeconds (s : State) : s.keyDiscard.stepSeconds = s.stepSeconds := rfl
@[simp] theorem keyDiscard_timeHi (s : State) : s.keyDiscard.timeHi = s.timeHi := rfl
@[simp] theorem keyDiscard_timeLo (s : State) : s.keyDiscard.timeLo = s.timeLo := rfl
@[simp] theorem keyDiscard_dec (s : State) : s.keyDiscard.dec = Decoder.cleared := rfl
@[simp] theorem keyDiscard_keyLen (s : State) : s.keyDiscard.keyLen = 0 := rfl
@[simp] theorem keyDiscard_key (s : State) : s.keyDiscard.key = Vector.replicate 64 0 := rfl
@[simp] theorem keyDiscard_ctrHi (s : State) : s.keyDiscard.ctrHi = s.ctrHi := rfl
@[simp] theorem keyDiscard_ctrLo (s : State) : s.keyDiscard.ctrLo = s.ctrLo := rfl
@[simp] theorem keyDiscard_remain (s : State) : s.keyDiscard.remain = s.remain := rfl
@[simp] theorem keyDiscard_digestLen (s : State) : s.keyDiscard.digestLen = s.digestLen := rfl
@[simp] theorem keyDiscard_digest (s : State) : s.keyDiscard.digest = s.digest := rfl
@[simp] theorem keyDiscard_offset (s : State) : s.keyDiscard.offset = s.offset := rfl
@[simp] theorem keyDiscard_trunc (s : State) : s.keyDiscard.trunc = s.trunc := rfl
@[simp] theorem keyDiscard_code (s : State) : s.keyDiscard.code = s.code := rfl
@[simp] theorem keyDiscard_ascii (s : State) : s.keyDiscard.ascii = s.ascii := rfl
@[simp] theorem keyDiscard_hreq (s : State) : s.keyDiscard.hreq = s.hreq := rfl
@[simp] theorem keyDiscard_host (s : State) : s.keyDiscard.host = s.host := rfl
@[simp] theorem keyDiscard_turns (s : State) : s.keyDiscard.turns = s.turns := rfl
@[simp] theorem keyDiscard_hostRead (s : State) : s.keyDiscard.hostRead = s.hostRead := rfl
@[simp] theorem keyDiscard_hashPoints (s : State) : s.keyDiscard.hashPoints = s.hashPoints := rfl

/-! ### `clearCounter` (R143) -/

@[simp] theorem clearCounter_busy (s : State) : s.clearCounter.busy = s.busy := rfl
@[simp] theorem clearCounter_codeValid (s : State) : s.clearCounter.codeValid = s.codeValid := rfl
@[simp] theorem clearCounter_err (s : State) : s.clearCounter.err = s.err := rfl
@[simp] theorem clearCounter_errChar (s : State) : s.clearCounter.errChar = s.errChar := rfl
@[simp] theorem clearCounter_ctrl (s : State) : s.clearCounter.ctrl = s.ctrl := rfl
@[simp] theorem clearCounter_stepSeconds (s : State) : s.clearCounter.stepSeconds = s.stepSeconds := rfl
@[simp] theorem clearCounter_timeHi (s : State) : s.clearCounter.timeHi = s.timeHi := rfl
@[simp] theorem clearCounter_timeLo (s : State) : s.clearCounter.timeLo = s.timeLo := rfl
@[simp] theorem clearCounter_dec (s : State) : s.clearCounter.dec = s.dec := rfl
@[simp] theorem clearCounter_keyLen (s : State) : s.clearCounter.keyLen = s.keyLen := rfl
@[simp] theorem clearCounter_key (s : State) : s.clearCounter.key = s.key := rfl
@[simp] theorem clearCounter_ctrHi (s : State) : s.clearCounter.ctrHi = 0 := rfl
@[simp] theorem clearCounter_ctrLo (s : State) : s.clearCounter.ctrLo = 0 := rfl
@[simp] theorem clearCounter_remain (s : State) : s.clearCounter.remain = 0 := rfl
@[simp] theorem clearCounter_digestLen (s : State) : s.clearCounter.digestLen = s.digestLen := rfl
@[simp] theorem clearCounter_digest (s : State) : s.clearCounter.digest = s.digest := rfl
@[simp] theorem clearCounter_offset (s : State) : s.clearCounter.offset = s.offset := rfl
@[simp] theorem clearCounter_trunc (s : State) : s.clearCounter.trunc = s.trunc := rfl
@[simp] theorem clearCounter_code (s : State) : s.clearCounter.code = s.code := rfl
@[simp] theorem clearCounter_ascii (s : State) : s.clearCounter.ascii = s.ascii := rfl
@[simp] theorem clearCounter_hreq (s : State) : s.clearCounter.hreq = s.hreq := rfl
@[simp] theorem clearCounter_host (s : State) : s.clearCounter.host = s.host := rfl
@[simp] theorem clearCounter_turns (s : State) : s.clearCounter.turns = s.turns := rfl
@[simp] theorem clearCounter_hostRead (s : State) : s.clearCounter.hostRead = s.hostRead := rfl
@[simp] theorem clearCounter_hashPoints (s : State) : s.clearCounter.hashPoints = s.hashPoints := rfl

/-! ### `counterCompute` (R141) -/

@[simp] theorem counterCompute_busy (s : State) : s.counterCompute.busy = s.busy := rfl
@[simp] theorem counterCompute_codeValid (s : State) : s.counterCompute.codeValid = s.codeValid := rfl
@[simp] theorem counterCompute_err (s : State) : s.counterCompute.err = s.err := rfl
@[simp] theorem counterCompute_errChar (s : State) : s.counterCompute.errChar = s.errChar := rfl
@[simp] theorem counterCompute_ctrl (s : State) : s.counterCompute.ctrl = s.ctrl := rfl
@[simp] theorem counterCompute_stepSeconds (s : State) : s.counterCompute.stepSeconds = s.stepSeconds := rfl
@[simp] theorem counterCompute_timeHi (s : State) : s.counterCompute.timeHi = s.timeHi := rfl
@[simp] theorem counterCompute_timeLo (s : State) : s.counterCompute.timeLo = s.timeLo := rfl
@[simp] theorem counterCompute_dec (s : State) : s.counterCompute.dec = s.dec := rfl
@[simp] theorem counterCompute_keyLen (s : State) : s.counterCompute.keyLen = s.keyLen := rfl
@[simp] theorem counterCompute_key (s : State) : s.counterCompute.key = s.key := rfl
@[simp] theorem counterCompute_ctrHi (s : State) : s.counterCompute.ctrHi = (s.time / s.stepSeconds.setWidth 64).extractLsb' 32 32 := rfl
@[simp] theorem counterCompute_ctrLo (s : State) : s.counterCompute.ctrLo = (s.time / s.stepSeconds.setWidth 64).extractLsb' 0 32 := rfl
@[simp] theorem counterCompute_remain (s : State) : s.counterCompute.remain = (s.stepSeconds.setWidth 64 - s.time % s.stepSeconds.setWidth 64).setWidth 32 := rfl
@[simp] theorem counterCompute_digestLen (s : State) : s.counterCompute.digestLen = s.digestLen := rfl
@[simp] theorem counterCompute_digest (s : State) : s.counterCompute.digest = s.digest := rfl
@[simp] theorem counterCompute_offset (s : State) : s.counterCompute.offset = s.offset := rfl
@[simp] theorem counterCompute_trunc (s : State) : s.counterCompute.trunc = s.trunc := rfl
@[simp] theorem counterCompute_code (s : State) : s.counterCompute.code = s.code := rfl
@[simp] theorem counterCompute_ascii (s : State) : s.counterCompute.ascii = s.ascii := rfl
@[simp] theorem counterCompute_hreq (s : State) : s.counterCompute.hreq = s.hreq := rfl
@[simp] theorem counterCompute_host (s : State) : s.counterCompute.host = s.host := rfl
@[simp] theorem counterCompute_turns (s : State) : s.counterCompute.turns = s.turns := rfl
@[simp] theorem counterCompute_hostRead (s : State) : s.counterCompute.hostRead = s.hostRead := rfl
@[simp] theorem counterCompute_hashPoints (s : State) : s.counterCompute.hashPoints = s.hashPoints := rfl

/-! ### `clearCode` (R163) -/

@[simp] theorem clearCode_busy (s : State) : s.clearCode.busy = s.busy := rfl
@[simp] theorem clearCode_codeValid (s : State) : s.clearCode.codeValid = false := rfl
@[simp] theorem clearCode_err (s : State) : s.clearCode.err = s.err := rfl
@[simp] theorem clearCode_errChar (s : State) : s.clearCode.errChar = s.errChar := rfl
@[simp] theorem clearCode_ctrl (s : State) : s.clearCode.ctrl = s.ctrl := rfl
@[simp] theorem clearCode_stepSeconds (s : State) : s.clearCode.stepSeconds = s.stepSeconds := rfl
@[simp] theorem clearCode_timeHi (s : State) : s.clearCode.timeHi = s.timeHi := rfl
@[simp] theorem clearCode_timeLo (s : State) : s.clearCode.timeLo = s.timeLo := rfl
@[simp] theorem clearCode_dec (s : State) : s.clearCode.dec = s.dec := rfl
@[simp] theorem clearCode_keyLen (s : State) : s.clearCode.keyLen = s.keyLen := rfl
@[simp] theorem clearCode_key (s : State) : s.clearCode.key = s.key := rfl
@[simp] theorem clearCode_ctrHi (s : State) : s.clearCode.ctrHi = s.ctrHi := rfl
@[simp] theorem clearCode_ctrLo (s : State) : s.clearCode.ctrLo = s.ctrLo := rfl
@[simp] theorem clearCode_remain (s : State) : s.clearCode.remain = s.remain := rfl
@[simp] theorem clearCode_digestLen (s : State) : s.clearCode.digestLen = s.digestLen := rfl
@[simp] theorem clearCode_digest (s : State) : s.clearCode.digest = s.digest := rfl
@[simp] theorem clearCode_offset (s : State) : s.clearCode.offset = 0 := rfl
@[simp] theorem clearCode_trunc (s : State) : s.clearCode.trunc = 0 := rfl
@[simp] theorem clearCode_code (s : State) : s.clearCode.code = 0 := rfl
@[simp] theorem clearCode_ascii (s : State) : s.clearCode.ascii = Vector.replicate 12 0 := rfl
@[simp] theorem clearCode_hreq (s : State) : s.clearCode.hreq = s.hreq := rfl
@[simp] theorem clearCode_host (s : State) : s.clearCode.host = s.host := rfl
@[simp] theorem clearCode_turns (s : State) : s.clearCode.turns = s.turns := rfl
@[simp] theorem clearCode_hostRead (s : State) : s.clearCode.hostRead = s.hostRead := rfl
@[simp] theorem clearCode_hashPoints (s : State) : s.clearCode.hashPoints = s.hashPoints := rfl

/-! ### `extract` (R161) -/

@[simp] theorem extract_busy (s : State) (len d : Nat) : (s.extract len d).busy = s.busy := rfl
@[simp] theorem extract_codeValid (s : State) (len d : Nat) : (s.extract len d).codeValid = true := rfl
@[simp] theorem extract_err (s : State) (len d : Nat) : (s.extract len d).err = s.err := rfl
@[simp] theorem extract_errChar (s : State) (len d : Nat) : (s.extract len d).errChar = s.errChar := rfl
@[simp] theorem extract_ctrl (s : State) (len d : Nat) : (s.extract len d).ctrl = s.ctrl := rfl
@[simp] theorem extract_stepSeconds (s : State) (len d : Nat) : (s.extract len d).stepSeconds = s.stepSeconds := rfl
@[simp] theorem extract_timeHi (s : State) (len d : Nat) : (s.extract len d).timeHi = s.timeHi := rfl
@[simp] theorem extract_timeLo (s : State) (len d : Nat) : (s.extract len d).timeLo = s.timeLo := rfl
@[simp] theorem extract_dec (s : State) (len d : Nat) : (s.extract len d).dec = s.dec := rfl
@[simp] theorem extract_keyLen (s : State) (len d : Nat) : (s.extract len d).keyLen = s.keyLen := rfl
@[simp] theorem extract_key (s : State) (len d : Nat) : (s.extract len d).key = s.key := rfl
@[simp] theorem extract_ctrHi (s : State) (len d : Nat) : (s.extract len d).ctrHi = s.ctrHi := rfl
@[simp] theorem extract_ctrLo (s : State) (len d : Nat) : (s.extract len d).ctrLo = s.ctrLo := rfl
@[simp] theorem extract_remain (s : State) (len d : Nat) : (s.extract len d).remain = s.remain := rfl
@[simp] theorem extract_digestLen (s : State) (len d : Nat) : (s.extract len d).digestLen = s.digestLen := rfl
@[simp] theorem extract_digest (s : State) (len d : Nat) : (s.extract len d).digest = s.digest := rfl
@[simp] theorem extract_offset (s : State) (len d : Nat) : (s.extract len d).offset = truncOffset s.digest len := rfl
@[simp] theorem extract_trunc (s : State) (len d : Nat) : (s.extract len d).trunc = truncValue s.digest len := rfl
@[simp] theorem extract_code (s : State) (len d : Nat) : (s.extract len d).code = BitVec.ofNat 32 ((truncValue s.digest len).toNat % 10 ^ d) := rfl
@[simp] theorem extract_ascii (s : State) (len d : Nat) : (s.extract len d).ascii = asciiOf ((truncValue s.digest len).toNat % 10 ^ d) d := rfl
@[simp] theorem extract_hreq (s : State) (len d : Nat) : (s.extract len d).hreq = s.hreq := rfl
@[simp] theorem extract_host (s : State) (len d : Nat) : (s.extract len d).host = s.host := rfl
@[simp] theorem extract_turns (s : State) (len d : Nat) : (s.extract len d).turns = s.turns := rfl
@[simp] theorem extract_hostRead (s : State) (len d : Nat) : (s.extract len d).hostRead = s.hostRead := rfl
@[simp] theorem extract_hashPoints (s : State) (len d : Nat) : (s.extract len d).hashPoints = s.hashPoints := rfl

/-! ### `loadDigest` (R182) -/

@[simp] theorem loadDigest_busy (s : State) (g : List Byte) : (s.loadDigest g).busy = s.busy := rfl
@[simp] theorem loadDigest_codeValid (s : State) (g : List Byte) : (s.loadDigest g).codeValid = s.codeValid := rfl
@[simp] theorem loadDigest_err (s : State) (g : List Byte) : (s.loadDigest g).err = s.err := rfl
@[simp] theorem loadDigest_errChar (s : State) (g : List Byte) : (s.loadDigest g).errChar = s.errChar := rfl
@[simp] theorem loadDigest_ctrl (s : State) (g : List Byte) : (s.loadDigest g).ctrl = s.ctrl := rfl
@[simp] theorem loadDigest_stepSeconds (s : State) (g : List Byte) : (s.loadDigest g).stepSeconds = s.stepSeconds := rfl
@[simp] theorem loadDigest_timeHi (s : State) (g : List Byte) : (s.loadDigest g).timeHi = s.timeHi := rfl
@[simp] theorem loadDigest_timeLo (s : State) (g : List Byte) : (s.loadDigest g).timeLo = s.timeLo := rfl
@[simp] theorem loadDigest_dec (s : State) (g : List Byte) : (s.loadDigest g).dec = s.dec := rfl
@[simp] theorem loadDigest_keyLen (s : State) (g : List Byte) : (s.loadDigest g).keyLen = s.keyLen := rfl
@[simp] theorem loadDigest_key (s : State) (g : List Byte) : (s.loadDigest g).key = s.key := rfl
@[simp] theorem loadDigest_ctrHi (s : State) (g : List Byte) : (s.loadDigest g).ctrHi = s.ctrHi := rfl
@[simp] theorem loadDigest_ctrLo (s : State) (g : List Byte) : (s.loadDigest g).ctrLo = s.ctrLo := rfl
@[simp] theorem loadDigest_remain (s : State) (g : List Byte) : (s.loadDigest g).remain = s.remain := rfl
@[simp] theorem loadDigest_digestLen (s : State) (g : List Byte) : (s.loadDigest g).digestLen = BitVec.ofNat 8 g.length := rfl
@[simp] theorem loadDigest_digest (s : State) (g : List Byte) : (s.loadDigest g).digest = bytesOf 64 (fun i => g.getD i 0) := rfl
@[simp] theorem loadDigest_offset (s : State) (g : List Byte) : (s.loadDigest g).offset = s.offset := rfl
@[simp] theorem loadDigest_trunc (s : State) (g : List Byte) : (s.loadDigest g).trunc = s.trunc := rfl
@[simp] theorem loadDigest_code (s : State) (g : List Byte) : (s.loadDigest g).code = s.code := rfl
@[simp] theorem loadDigest_ascii (s : State) (g : List Byte) : (s.loadDigest g).ascii = s.ascii := rfl
@[simp] theorem loadDigest_hreq (s : State) (g : List Byte) : (s.loadDigest g).hreq = s.hreq := rfl
@[simp] theorem loadDigest_host (s : State) (g : List Byte) : (s.loadDigest g).host = s.host := rfl
@[simp] theorem loadDigest_turns (s : State) (g : List Byte) : (s.loadDigest g).turns = s.turns := rfl
@[simp] theorem loadDigest_hostRead (s : State) (g : List Byte) : (s.loadDigest g).hostRead = s.hostRead := rfl
@[simp] theorem loadDigest_hashPoints (s : State) (g : List Byte) : (s.loadDigest g).hashPoints = s.hashPoints := rfl

/-! ### `clearDigest` (R182, R183) -/

@[simp] theorem clearDigest_busy (s : State) : s.clearDigest.busy = s.busy := rfl
@[simp] theorem clearDigest_codeValid (s : State) : s.clearDigest.codeValid = s.codeValid := rfl
@[simp] theorem clearDigest_err (s : State) : s.clearDigest.err = s.err := rfl
@[simp] theorem clearDigest_errChar (s : State) : s.clearDigest.errChar = s.errChar := rfl
@[simp] theorem clearDigest_ctrl (s : State) : s.clearDigest.ctrl = s.ctrl := rfl
@[simp] theorem clearDigest_stepSeconds (s : State) : s.clearDigest.stepSeconds = s.stepSeconds := rfl
@[simp] theorem clearDigest_timeHi (s : State) : s.clearDigest.timeHi = s.timeHi := rfl
@[simp] theorem clearDigest_timeLo (s : State) : s.clearDigest.timeLo = s.timeLo := rfl
@[simp] theorem clearDigest_dec (s : State) : s.clearDigest.dec = s.dec := rfl
@[simp] theorem clearDigest_keyLen (s : State) : s.clearDigest.keyLen = s.keyLen := rfl
@[simp] theorem clearDigest_key (s : State) : s.clearDigest.key = s.key := rfl
@[simp] theorem clearDigest_ctrHi (s : State) : s.clearDigest.ctrHi = s.ctrHi := rfl
@[simp] theorem clearDigest_ctrLo (s : State) : s.clearDigest.ctrLo = s.ctrLo := rfl
@[simp] theorem clearDigest_remain (s : State) : s.clearDigest.remain = s.remain := rfl
@[simp] theorem clearDigest_digestLen (s : State) : s.clearDigest.digestLen = 0 := rfl
@[simp] theorem clearDigest_digest (s : State) : s.clearDigest.digest = Vector.replicate 64 0 := rfl
@[simp] theorem clearDigest_offset (s : State) : s.clearDigest.offset = s.offset := rfl
@[simp] theorem clearDigest_trunc (s : State) : s.clearDigest.trunc = s.trunc := rfl
@[simp] theorem clearDigest_code (s : State) : s.clearDigest.code = s.code := rfl
@[simp] theorem clearDigest_ascii (s : State) : s.clearDigest.ascii = s.ascii := rfl
@[simp] theorem clearDigest_hreq (s : State) : s.clearDigest.hreq = s.hreq := rfl
@[simp] theorem clearDigest_host (s : State) : s.clearDigest.host = s.host := rfl
@[simp] theorem clearDigest_turns (s : State) : s.clearDigest.turns = s.turns := rfl
@[simp] theorem clearDigest_hostRead (s : State) : s.clearDigest.hostRead = s.hostRead := rfl
@[simp] theorem clearDigest_hashPoints (s : State) : s.clearDigest.hashPoints = s.hashPoints := rfl

/-! ### `issueRequest` (R180) -/

@[simp] theorem issueRequest_busy (s : State) : s.issueRequest.busy = true := rfl
@[simp] theorem issueRequest_codeValid (s : State) : s.issueRequest.codeValid = s.codeValid := rfl
@[simp] theorem issueRequest_err (s : State) : s.issueRequest.err = s.err := rfl
@[simp] theorem issueRequest_errChar (s : State) : s.issueRequest.errChar = s.errChar := rfl
@[simp] theorem issueRequest_ctrl (s : State) : s.issueRequest.ctrl = s.ctrl := rfl
@[simp] theorem issueRequest_stepSeconds (s : State) : s.issueRequest.stepSeconds = s.stepSeconds := rfl
@[simp] theorem issueRequest_timeHi (s : State) : s.issueRequest.timeHi = s.timeHi := rfl
@[simp] theorem issueRequest_timeLo (s : State) : s.issueRequest.timeLo = s.timeLo := rfl
@[simp] theorem issueRequest_dec (s : State) : s.issueRequest.dec = s.dec := rfl
@[simp] theorem issueRequest_keyLen (s : State) : s.issueRequest.keyLen = s.keyLen := rfl
@[simp] theorem issueRequest_key (s : State) : s.issueRequest.key = s.key := rfl
@[simp] theorem issueRequest_ctrHi (s : State) : s.issueRequest.ctrHi = s.ctrHi := rfl
@[simp] theorem issueRequest_ctrLo (s : State) : s.issueRequest.ctrLo = s.ctrLo := rfl
@[simp] theorem issueRequest_remain (s : State) : s.issueRequest.remain = s.remain := rfl
@[simp] theorem issueRequest_digestLen (s : State) : s.issueRequest.digestLen = s.digestLen := rfl
@[simp] theorem issueRequest_digest (s : State) : s.issueRequest.digest = s.digest := rfl
@[simp] theorem issueRequest_offset (s : State) : s.issueRequest.offset = s.offset := rfl
@[simp] theorem issueRequest_trunc (s : State) : s.issueRequest.trunc = s.trunc := rfl
@[simp] theorem issueRequest_code (s : State) : s.issueRequest.code = s.code := rfl
@[simp] theorem issueRequest_ascii (s : State) : s.issueRequest.ascii = s.ascii := rfl
@[simp] theorem issueRequest_hreq (s : State) : s.issueRequest.hreq = some { alg := s.ctrl.alg, key := s.keyBytes, msg := be8 s.ctr } := rfl
@[simp] theorem issueRequest_host (s : State) : s.issueRequest.host = s.host := rfl
@[simp] theorem issueRequest_turns (s : State) : s.issueRequest.turns = s.turns := rfl
@[simp] theorem issueRequest_hostRead (s : State) : s.issueRequest.hostRead = s.hostRead := rfl
@[simp] theorem issueRequest_hashPoints (s : State) : s.issueRequest.hashPoints = s.hashPoints := rfl

/-! ### `endRequest` (R182, R183) -/

@[simp] theorem endRequest_busy (s : State) : s.endRequest.busy = false := rfl
@[simp] theorem endRequest_codeValid (s : State) : s.endRequest.codeValid = s.codeValid := rfl
@[simp] theorem endRequest_err (s : State) : s.endRequest.err = s.err := rfl
@[simp] theorem endRequest_errChar (s : State) : s.endRequest.errChar = s.errChar := rfl
@[simp] theorem endRequest_ctrl (s : State) : s.endRequest.ctrl = s.ctrl := rfl
@[simp] theorem endRequest_stepSeconds (s : State) : s.endRequest.stepSeconds = s.stepSeconds := rfl
@[simp] theorem endRequest_timeHi (s : State) : s.endRequest.timeHi = s.timeHi := rfl
@[simp] theorem endRequest_timeLo (s : State) : s.endRequest.timeLo = s.timeLo := rfl
@[simp] theorem endRequest_dec (s : State) : s.endRequest.dec = s.dec := rfl
@[simp] theorem endRequest_keyLen (s : State) : s.endRequest.keyLen = s.keyLen := rfl
@[simp] theorem endRequest_key (s : State) : s.endRequest.key = s.key := rfl
@[simp] theorem endRequest_ctrHi (s : State) : s.endRequest.ctrHi = s.ctrHi := rfl
@[simp] theorem endRequest_ctrLo (s : State) : s.endRequest.ctrLo = s.ctrLo := rfl
@[simp] theorem endRequest_remain (s : State) : s.endRequest.remain = s.remain := rfl
@[simp] theorem endRequest_digestLen (s : State) : s.endRequest.digestLen = s.digestLen := rfl
@[simp] theorem endRequest_digest (s : State) : s.endRequest.digest = s.digest := rfl
@[simp] theorem endRequest_offset (s : State) : s.endRequest.offset = s.offset := rfl
@[simp] theorem endRequest_trunc (s : State) : s.endRequest.trunc = s.trunc := rfl
@[simp] theorem endRequest_code (s : State) : s.endRequest.code = s.code := rfl
@[simp] theorem endRequest_ascii (s : State) : s.endRequest.ascii = s.ascii := rfl
@[simp] theorem endRequest_hreq (s : State) : s.endRequest.hreq = none := rfl
@[simp] theorem endRequest_host (s : State) : s.endRequest.host = s.host := rfl
@[simp] theorem endRequest_turns (s : State) : s.endRequest.turns = s.turns := rfl
@[simp] theorem endRequest_hostRead (s : State) : s.endRequest.hostRead = s.hostRead := rfl
@[simp] theorem endRequest_hashPoints (s : State) : s.endRequest.hashPoints = s.hashPoints := rfl

/-! ### `resetBlock` (R240) -/

@[simp] theorem resetBlock_busy (s : State) : s.resetBlock.busy = State.reset.busy := rfl
@[simp] theorem resetBlock_codeValid (s : State) : s.resetBlock.codeValid = State.reset.codeValid := rfl
@[simp] theorem resetBlock_err (s : State) : s.resetBlock.err = State.reset.err := rfl
@[simp] theorem resetBlock_errChar (s : State) : s.resetBlock.errChar = State.reset.errChar := rfl
@[simp] theorem resetBlock_ctrl (s : State) : s.resetBlock.ctrl = State.reset.ctrl := rfl
@[simp] theorem resetBlock_stepSeconds (s : State) : s.resetBlock.stepSeconds = State.reset.stepSeconds := rfl
@[simp] theorem resetBlock_timeHi (s : State) : s.resetBlock.timeHi = State.reset.timeHi := rfl
@[simp] theorem resetBlock_timeLo (s : State) : s.resetBlock.timeLo = State.reset.timeLo := rfl
@[simp] theorem resetBlock_dec (s : State) : s.resetBlock.dec = State.reset.dec := rfl
@[simp] theorem resetBlock_keyLen (s : State) : s.resetBlock.keyLen = State.reset.keyLen := rfl
@[simp] theorem resetBlock_key (s : State) : s.resetBlock.key = State.reset.key := rfl
@[simp] theorem resetBlock_ctrHi (s : State) : s.resetBlock.ctrHi = State.reset.ctrHi := rfl
@[simp] theorem resetBlock_ctrLo (s : State) : s.resetBlock.ctrLo = State.reset.ctrLo := rfl
@[simp] theorem resetBlock_remain (s : State) : s.resetBlock.remain = State.reset.remain := rfl
@[simp] theorem resetBlock_digestLen (s : State) : s.resetBlock.digestLen = State.reset.digestLen := rfl
@[simp] theorem resetBlock_digest (s : State) : s.resetBlock.digest = State.reset.digest := rfl
@[simp] theorem resetBlock_offset (s : State) : s.resetBlock.offset = State.reset.offset := rfl
@[simp] theorem resetBlock_trunc (s : State) : s.resetBlock.trunc = State.reset.trunc := rfl
@[simp] theorem resetBlock_code (s : State) : s.resetBlock.code = State.reset.code := rfl
@[simp] theorem resetBlock_ascii (s : State) : s.resetBlock.ascii = State.reset.ascii := rfl
@[simp] theorem resetBlock_hreq (s : State) : s.resetBlock.hreq = State.reset.hreq := rfl
@[simp] theorem resetBlock_host (s : State) : s.resetBlock.host = s.host := rfl
@[simp] theorem resetBlock_turns (s : State) : s.resetBlock.turns = s.turns := rfl
@[simp] theorem resetBlock_hostRead (s : State) : s.resetBlock.hostRead = s.hostRead := rfl
@[simp] theorem resetBlock_hashPoints (s : State) : s.resetBlock.hashPoints = s.hashPoints := rfl

/-! ### `issueCommand` (log 8) -/

@[simp] theorem issueCommand_busy (s : State) (w : Word) : (s.issueCommand w).busy = s.busy := rfl
@[simp] theorem issueCommand_codeValid (s : State) (w : Word) : (s.issueCommand w).codeValid = s.codeValid := rfl
@[simp] theorem issueCommand_err (s : State) (w : Word) : (s.issueCommand w).err = s.err := rfl
@[simp] theorem issueCommand_errChar (s : State) (w : Word) : (s.issueCommand w).errChar = s.errChar := rfl
@[simp] theorem issueCommand_ctrl (s : State) (w : Word) : (s.issueCommand w).ctrl = s.ctrl := rfl
@[simp] theorem issueCommand_stepSeconds (s : State) (w : Word) : (s.issueCommand w).stepSeconds = s.stepSeconds := rfl
@[simp] theorem issueCommand_timeHi (s : State) (w : Word) : (s.issueCommand w).timeHi = s.timeHi := rfl
@[simp] theorem issueCommand_timeLo (s : State) (w : Word) : (s.issueCommand w).timeLo = s.timeLo := rfl
@[simp] theorem issueCommand_dec (s : State) (w : Word) : (s.issueCommand w).dec = s.dec := rfl
@[simp] theorem issueCommand_keyLen (s : State) (w : Word) : (s.issueCommand w).keyLen = s.keyLen := rfl
@[simp] theorem issueCommand_key (s : State) (w : Word) : (s.issueCommand w).key = s.key := rfl
@[simp] theorem issueCommand_ctrHi (s : State) (w : Word) : (s.issueCommand w).ctrHi = s.ctrHi := rfl
@[simp] theorem issueCommand_ctrLo (s : State) (w : Word) : (s.issueCommand w).ctrLo = s.ctrLo := rfl
@[simp] theorem issueCommand_remain (s : State) (w : Word) : (s.issueCommand w).remain = s.remain := rfl
@[simp] theorem issueCommand_digestLen (s : State) (w : Word) : (s.issueCommand w).digestLen = s.digestLen := rfl
@[simp] theorem issueCommand_digest (s : State) (w : Word) : (s.issueCommand w).digest = s.digest := rfl
@[simp] theorem issueCommand_offset (s : State) (w : Word) : (s.issueCommand w).offset = s.offset := rfl
@[simp] theorem issueCommand_trunc (s : State) (w : Word) : (s.issueCommand w).trunc = s.trunc := rfl
@[simp] theorem issueCommand_code (s : State) (w : Word) : (s.issueCommand w).code = s.code := rfl
@[simp] theorem issueCommand_ascii (s : State) (w : Word) : (s.issueCommand w).ascii = s.ascii := rfl
@[simp] theorem issueCommand_hreq (s : State) (w : Word) : (s.issueCommand w).hreq = s.hreq := rfl
@[simp] theorem issueCommand_host (s : State) (w : Word) : (s.issueCommand w).host = .write cmdIdx w :: s.host := rfl
@[simp] theorem issueCommand_turns (s : State) (w : Word) : (s.issueCommand w).turns = .host :: s.turns := rfl
@[simp] theorem issueCommand_hostRead (s : State) (w : Word) : (s.issueCommand w).hostRead = s.hostRead := rfl
@[simp] theorem issueCommand_hashPoints (s : State) (w : Word) : (s.issueCommand w).hashPoints = s.hashPoints := rfl
end Sys2Proof.Machine.State
end

