-- ==== Sys2Proof/Laws/Ops.lean ====
section
/-! SUPPORT. One lemma per shared operation that says what it does (spec/40_decoder.md R104, R106,
spec/41_counter.md R141, spec/42_digits.md R161, spec/20_memory.md R65). -/

namespace Sys2Proof.Machine

/-! ### `Pack` (R104) -/

/-- Below three pending bits no byte completes. -/
theorem pack_few {acc : Byte} {nbits : BitVec 3} (v : BitVec 5) (h : nbits.toNat < 3) :
    pack acc nbits v =
      { acc := BitVec.ofNat 8 (acc.toNat * 32 + v.toNat), nbits := BitVec.ofNat 3 (nbits.toNat + 5),
        emitted := none } := by
  unfold pack
  simp only
  rw [if_neg (by omega)]

/-- From three pending bits on, one byte completes. -/
theorem pack_many {acc : Byte} {nbits : BitVec 3} (v : BitVec 5) (h : 3 ≤ nbits.toNat) :
    pack acc nbits v =
      { acc := BitVec.ofNat 8 ((acc.toNat * 32 + v.toNat) % 2 ^ (nbits.toNat - 3)),
        nbits := BitVec.ofNat 3 (nbits.toNat - 3),
        emitted := some (BitVec.ofNat 8 ((acc.toNat * 32 + v.toNat) >>> (nbits.toNat - 3))) } := by
  unfold pack
  simp only
  rw [if_pos (by omega), show nbits.toNat + 5 - 8 = nbits.toNat - 3 by omega]

/-- `Pack` keeps `ACC < 2^NBITS` (R43(a)). -/
theorem pack_acc_lt {acc : Byte} {nbits : BitVec 3} (v : BitVec 5) (h : acc.toNat < 2 ^ nbits.toNat) :
    (pack acc nbits v).acc.toNat < 2 ^ (pack acc nbits v).nbits.toNat := by
  have hv := v.isLt
  have hn := nbits.isLt
  by_cases h3 : nbits.toNat < 3
  · rw [pack_few v h3]
    simp only [BitVec.toNat_ofNat]
    rw [Nat.mod_eq_of_lt (show nbits.toNat + 5 < 2 ^ 3 by omega)]
    refine lt_of_le_of_lt (Nat.mod_le _ _) ?_
    rw [pow_add]; omega
  · rw [pack_many v (by omega)]
    simp only [BitVec.toNat_ofNat]
    rw [Nat.mod_eq_of_lt (show nbits.toNat - 3 < 2 ^ 3 by omega)]
    exact lt_of_le_of_lt (Nat.mod_le _ _) (Nat.mod_lt _ (by positivity))

/-- `packValue` where no byte completes. -/
theorem packValue_few {s : State} (v : BitVec 5) (h : s.dec.nbits.toNat < 3) :
    s.packValue v = { s with dec := { s.dec with
      acc := BitVec.ofNat 8 (s.dec.acc.toNat * 32 + v.toNat), nbits := BitVec.ofNat 3 (s.dec.nbits.toNat + 5) } } := by
  simp only [State.packValue, pack_few v h, State.keyAppend]

/-- `packValue` where a byte completes: it goes to `KEY[KEY_LEN]`. -/
theorem packValue_many {s : State} (v : BitVec 5) (h : 3 ≤ s.dec.nbits.toNat) :
    s.packValue v = { s with
      dec := { s.dec with
        acc := BitVec.ofNat 8 ((s.dec.acc.toNat * 32 + v.toNat) % 2 ^ (s.dec.nbits.toNat - 3)),
        nbits := BitVec.ofNat 3 (s.dec.nbits.toNat - 3) },
      key := s.key.setIfInBounds s.keyLen.toNat
        (BitVec.ofNat 8 ((s.dec.acc.toNat * 32 + v.toNat) >>> (s.dec.nbits.toNat - 3))),
      keyLen := s.keyLen + 1 } := by
  simp only [State.packValue, pack_many v h, State.keyAppend]

theorem keyLen_succ {s : State} (h : s.keyLen.toNat < 64) : (s.keyLen + 1).toNat = s.keyLen.toNat + 1 := by
  rw [BitVec.toNat_add]; simp; omega

/-! ### The counter (R141) -/

theorem ctr_counterCompute (s : State) : s.counterCompute.ctr = s.time / s.stepSeconds.setWidth 64 := by
  apply BitVec.eq_of_getLsbD_eq; intro i hi
  show (_ ++ _ : BitVec (32 + 32)).getLsbD i = _
  simp only [State.counterCompute_ctrHi, State.counterCompute_ctrLo, BitVec.getLsbD_append, BitVec.getLsbD_extractLsb']
  split
  · simp [*]
  · next h => simp only [show i - 32 < 32 by omega, decide_true, Bool.true_and]; congr 1; omega

theorem stepSeconds_toNat (s : State) : (s.stepSeconds.setWidth 64).toNat = s.stepSeconds.toNat := by
  have := s.stepSeconds.isLt
  simp only [BitVec.toNat_setWidth]; omega

/-- The counter is the integer quotient. -/
theorem ctr_counterCompute_toNat (s : State) :
    s.counterCompute.ctr.toNat = s.time.toNat / s.stepSeconds.toNat := by
  rw [ctr_counterCompute, BitVec.toNat_udiv, stepSeconds_toNat]

/-- The seconds remaining, as an integer. -/
theorem remain_counterCompute_toNat (s : State) (h : s.stepSeconds ≠ 0) :
    s.counterCompute.remain.toNat = s.stepSeconds.toNat - s.time.toNat % s.stepSeconds.toNat := by
  have hlt := s.stepSeconds.isLt
  have h0 : 0 < s.stepSeconds.toNat := Nat.pos_of_ne_zero fun e => h (BitVec.eq_of_toNat_eq e)
  have hm := Nat.mod_lt s.time.toNat h0
  simp only [State.counterCompute_remain, BitVec.toNat_setWidth, BitVec.toNat_sub, BitVec.toNat_umod]
  rw [Nat.mod_eq_of_lt (show s.stepSeconds.toNat < 2 ^ 64 by omega)]
  omega

/-! ### Digits (R161, R162) -/

/-- A character of the rendering is a digit. -/
theorem decDigit_toNat (n d j : Nat) : (decDigit n d j).toNat = 0x30 + n / 10 ^ (d - 1 - j) % 10 := by
  have := Nat.mod_lt (n / 10 ^ (d - 1 - j)) (show 0 < 10 by decide)
  simp only [decDigit, BitVec.toNat_ofNat]; omega

theorem byteAt_asciiOf (n d j : Nat) : byteAt (asciiOf n d) j = if j < 12 ∧ j < d then decDigit n d j else 0 := by
  rw [asciiOf, byteAt_bytesOf]
  by_cases h : j < 12 <;> simp [h]

/-- The offset as the spec writes it. -/
theorem truncOffset_toNat (digest : Vector Byte 64) (len : Nat) :
    (truncOffset digest len).toNat = (byteAt digest (len - 1)).toNat % 16 := by
  simp [truncOffset]

/-- The truncated value as an integer. -/
theorem truncValue_toNat (digest : Vector Byte 64) (len : Nat) :
    (truncValue digest len).toNat =
      (be32 (byteAt digest (truncOffset digest len).toNat) (byteAt digest ((truncOffset digest len).toNat + 1))
        (byteAt digest ((truncOffset digest len).toNat + 2))
        (byteAt digest ((truncOffset digest len).toNat + 3))).toNat % 2 ^ 31 := by
  simp only [truncValue, BitVec.toNat_setWidth]

/-- `CODE` after an extraction, as an integer. -/
theorem code_extract_toNat (s : State) (len d : Nat) :
    (s.extract len d).code.toNat = (truncValue s.digest len).toNat % 10 ^ d := by
  have := (truncValue s.digest len).isLt
  have := Nat.mod_le (truncValue s.digest len).toNat (10 ^ d)
  simp only [State.extract_code, BitVec.toNat_ofNat]
  exact Nat.mod_eq_of_lt (by omega)

/-! ### Register reads and writes (R65) -/

/-- The digest windows are the sixteen words of the map. -/
theorem ofIdx_digest_lt (idx : RegIdx) (k : Nat) (h : Reg.ofIdx idx = .digest k) : k < 16 := by
  have all : ∀ j : RegIdx, (match Reg.ofIdx j with | .digest k => decide (k < 16) | _ => true) = true := by decide
  have := all idx
  rw [h] at this
  simpa using this

/-- Two indices name one register only where it is the reserved one. -/
theorem ofIdx_inj : ∀ idx j : RegIdx, Reg.ofIdx idx = Reg.ofIdx j → Reg.ofIdx idx ≠ .reserved → j = idx := by
  decide

/-- A write leaves what every other register reads. -/
theorem readReg_storeReg_other (s : State) (w : Word) (r r' : Reg) (hne : r' ≠ r)
    (hr : ∀ k, r = .digest k → k < 16) : (s.storeReg w r).readReg r' = s.readReg r' := by
  cases r with
  | digest k =>
    cases r' with
    | digest k' =>
      exact (windowWord_windowSet _ _ _ _ (by have := hr k rfl; omega)).trans
        (if_neg (by rintro rfl; exact hne rfl))
    | _ => rfl
  | ctrl => cases r' <;> first | exact absurd rfl hne | rfl
  | step => cases r' <;> first | exact absurd rfl hne | rfl
  | timeHi => cases r' <;> first | exact absurd rfl hne | rfl
  | timeLo => cases r' <;> first | exact absurd rfl hne | rfl
  | digestLen => cases r' <;> first | exact absurd rfl hne | rfl
  | _ => rfl

/-- A write leaves the outstanding request and what the agents hold. -/
theorem storeReg_frame (s : State) (w : Word) (r : Reg) :
    (s.storeReg w r).hreq = s.hreq ∧ (s.storeReg w r).busy = s.busy ∧ (s.storeReg w r).dec = s.dec ∧
    (s.storeReg w r).host = s.host ∧ (s.storeReg w r).turns = s.turns ∧ (s.storeReg w r).hostRead = s.hostRead ∧
    (s.storeReg w r).hashPoints = s.hashPoints := by
  cases r <;> exact ⟨rfl, rfl, rfl, rfl, rfl, rfl, rfl⟩

end Sys2Proof.Machine
end

