-- ==== Sys2Proof/Laws/Invariants.lean ====
section
/-! SUPPORT. Every shared operation keeps the block's invariant (spec/10_state.md R43); one lemma per operation. -/

namespace Sys2Proof.Machine

/-- The invariant reads these fields only. -/
theorem BlockInv.congr {s t : State} (h : BlockInv s) (hdec : t.dec = s.dec) (hlen : t.keyLen = s.keyLen)
    (hkey : t.key = s.key) (hcv : t.codeValid = s.codeValid) (hoff : t.offset = s.offset) (htr : t.trunc = s.trunc)
    (hcode : t.code = s.code) (hasc : t.ascii = s.ascii) (hbusy : t.busy = s.busy) (hreq : t.hreq = s.hreq) :
    BlockInv t := by
  obtain ⟨ha, hb1, hb2, hc, hd, he, hf, hg⟩ := h
  constructor <;> simp_all

theorem BlockInv.raiseError {s : State} (h : BlockInv s) (c : ResultCode) (ch : Byte) :
    BlockInv (s.raiseError c ch) := h.congr rfl rfl rfl rfl rfl rfl rfl rfl rfl rfl

theorem BlockInv.clearCounter {s : State} (h : BlockInv s) : BlockInv s.clearCounter :=
  h.congr rfl rfl rfl rfl rfl rfl rfl rfl rfl rfl

theorem BlockInv.counterCompute {s : State} (h : BlockInv s) : BlockInv s.counterCompute :=
  h.congr rfl rfl rfl rfl rfl rfl rfl rfl rfl rfl

theorem BlockInv.loadDigest {s : State} (h : BlockInv s) (g : List Byte) : BlockInv (s.loadDigest g) :=
  h.congr rfl rfl rfl rfl rfl rfl rfl rfl rfl rfl

theorem BlockInv.clearDigest {s : State} (h : BlockInv s) : BlockInv s.clearDigest :=
  h.congr rfl rfl rfl rfl rfl rfl rfl rfl rfl rfl

theorem BlockInv.storeReg {s : State} (h : BlockInv s) (w : Word) (r : Reg) : BlockInv (s.storeReg w r) := by
  cases r <;> exact h.congr rfl rfl rfl rfl rfl rfl rfl rfl rfl rfl

/-- What the agents outside the block hold is no part of the invariant. -/
theorem BlockInv.withAgents {s : State} (h : BlockInv s) (a : List HostAccess) (b : List Turn) (r : Option Word) :
    BlockInv { s with host := a, turns := b, hostRead := r } := h.congr rfl rfl rfl rfl rfl rfl rfl rfl rfl rfl

theorem BlockInv.decClear {s : State} (h : BlockInv s) : BlockInv s.decClear := by
  obtain ⟨ha, hb1, hb2, hc, hd, he, hf, hg⟩ := h
  constructor <;> simp_all [Decoder.cleared]

theorem BlockInv.decFail {s : State} (h : BlockInv s) {c : ResultCode} (ch : Byte) (hc : c ≠ .ok) :
    BlockInv (s.decFail c ch) := by
  obtain ⟨ha, hb1, hb2, hc, hd, he, hf, hg⟩ := h
  constructor <;> simp_all [Decoder.cleared]

theorem BlockInv.clearCode {s : State} (h : BlockInv s) : BlockInv s.clearCode := by
  obtain ⟨ha, hb1, hb2, hc, hd, he, hf, hg⟩ := h
  constructor <;> simp_all

theorem BlockInv.extract {s : State} (h : BlockInv s) (len d : Nat) : BlockInv (s.extract len d) := by
  obtain ⟨ha, hb1, hb2, hc, hd, he, hf, hg⟩ := h
  constructor <;> simp_all

theorem BlockInv.issueRequest {s : State} (h : BlockInv s) : BlockInv s.issueRequest := by
  obtain ⟨ha, hb1, hb2, hc, hd, he, hf, hg⟩ := h
  constructor <;> simp_all

theorem BlockInv.endRequest {s : State} (h : BlockInv s) : BlockInv s.endRequest := by
  obtain ⟨ha, hb1, hb2, hc, hd, he, hf, hg⟩ := h
  constructor <;> simp_all

/-- `Pack` keeps the invariant where the overflow check has passed (R106). -/
theorem BlockInv.packValue {s : State} (h : BlockInv s) (v : BitVec 5) (ho : s.dec.dstate = .opened)
    (hk : s.dec.nbits.toNat < 3 ∨ s.keyLen.toNat < 64) : BlockInv (s.packValue v) := by
  have hp := pack_acc_lt v h.a_acc
  by_cases h3 : s.dec.nbits.toNat < 3
  · rw [pack_few v h3] at hp
    rw [packValue_few v h3]
    obtain ⟨ha, hb1, hb2, hc, hd, he, hf, hg⟩ := h
    constructor <;> simp_all
  · have hlen := keyLen_succ (s := s) (by omega)
    rw [pack_many v (by omega)] at hp
    rw [packValue_many v (by omega)]
    obtain ⟨ha, hb1, hb2, hc, hd, he, hf, hg⟩ := h
    constructor
    · exact hp
    · show (s.keyLen + 1).toNat ≤ 64
      omega
    · intro i hi
      have hi : (s.keyLen + 1).toNat ≤ i := hi
      show byteAt (s.key.setIfInBounds _ _) i = 0
      rw [byteAt_set, if_neg (by omega)]
      exact hb2 i (by omega)
    · intro e; rw [ho] at e; cases e
    · exact fun _ => hd (by rw [ho]; simp) |>.imp id id
    · intro e; rw [ho] at e; cases e
    · exact hf
    · exact hg

end Sys2Proof.Machine
end

