-- ==== Sys2Proof/Laws/Meanings.lean ====
section
/-! SUPPORT. The meaning of each command, one equation per case of its rule, over the shared operations. -/

namespace Sys2Proof.Machine

theorem digitsLegal_iff (s : State) :
    s.digitsLegal = true ↔ 1 ≤ s.ctrl.digits.toNat ∧ s.ctrl.digits.toNat ≤ 10 := by
  simp [State.digitsLegal]

theorem digestLenLegal_iff (len : Nat) : digestLenLegal len = true ↔ 20 ≤ len ∧ len ≤ 64 := by
  simp [digestLenLegal]

@[simp] theorem digitsLegal_clearCode (s : State) : s.clearCode.digitsLegal = s.digitsLegal := rfl
@[simp] theorem digitsLegal_clearCounter (s : State) : s.clearCounter.digitsLegal = s.digitsLegal := rfl

/-! ### The decoder commands (R105 to R107) -/

theorem exec_decChar_done {s : State} (c : Byte) (h : s.dec.dstate = .done) :
    exec (.decChar c) s = .next (s.raiseError .decNotOpen 0) := by simp only [exec, execDecChar, h]

theorem exec_decChar_error {s : State} (c : Byte) (h : s.dec.dstate = .error) :
    exec (.decChar c) s = .next (s.raiseError s.dec.derr s.dec.dchar) := by simp only [exec, execDecChar, h]

theorem exec_decChar_open {s : State} (c : Byte) (h : s.dec.dstate = .opened) :
    exec (.decChar c) s = .next (decCharOpen c s) := by simp only [exec, execDecChar, h]

theorem exec_decEnd_done {s : State} (h : s.dec.dstate = .done) :
    exec .decEnd s = .next (s.raiseError .decNotOpen 0) := by simp only [exec, execDecEnd, h]

theorem exec_decEnd_error {s : State} (h : s.dec.dstate = .error) :
    exec .decEnd s = .next (s.raiseError s.dec.derr s.dec.dchar) := by simp only [exec, execDecEnd, h]

theorem exec_decEnd_open {s : State} (h : s.dec.dstate = .opened) :
    exec .decEnd s = .next (decEndOpen s) := by simp only [exec, execDecEnd, h]

/-! ### `CTR_GEN` (R140) -/

theorem exec_ctrGen_ok {s : State} (h : s.stepSeconds ≠ 0) :
    exec .ctrGen s = .next s.clearCode.counterCompute.recordOk := by
  show (if s.stepSeconds = 0 then _ else _) = _
  rw [if_neg h]

theorem exec_ctrGen_zero {s : State} (h : s.stepSeconds = 0) :
    exec .ctrGen s = .next (s.clearCode.clearCounter.raiseError .cfgStepZero 0) := by
  show (if s.stepSeconds = 0 then _ else _) = _
  rw [if_pos h]

/-! ### `DIG_EXT` (R160) -/

theorem exec_digExt_digits {s : State} (h : s.digitsLegal = false) :
    exec .digExt s = .next (s.clearCode.raiseError .cfgDigits 0) := by
  simp [exec, execDigExt, h]

theorem exec_digExt_length {s : State} (h : s.digitsLegal = true) (hl : digestLenLegal s.digestLen.toNat = false) :
    exec .digExt s = .next (s.clearCode.raiseError .digestLenBad 0) := by
  simp [exec, execDigExt, h, hl]

theorem exec_digExt_ok {s : State} (h : s.digitsLegal = true) (hl : digestLenLegal s.digestLen.toNat = true) :
    exec .digExt s = .next (s.clearCode.extract s.digestLen.toNat s.ctrl.digits.toNat).recordOk := by
  simp [exec, execDigExt, h, hl]

/-! ### `GENERATE`, phase 1 (R180) -/

theorem exec_generate_noKey {s : State} (h : s.dec.dstate ≠ .done) :
    exec .generate s = .next (s.clearCode.clearCounter.raiseError .noKey 0) := by
  simp [exec, execGenerate, h]

theorem exec_generate_step {s : State} (h : s.dec.dstate = .done) (hs : s.stepSeconds = 0) :
    exec .generate s = .next (s.clearCode.clearCounter.keyDiscard.raiseError .cfgStepZero 0) := by
  simp [exec, execGenerate, h, hs]

theorem exec_generate_digits {s : State} (h : s.dec.dstate = .done) (hs : s.stepSeconds ≠ 0)
    (hd : s.digitsLegal = false) :
    exec .generate s = .next (s.clearCode.clearCounter.keyDiscard.raiseError .cfgDigits 0) := by
  simp_all [exec, execGenerate]

theorem exec_generate_empty {s : State} (h : s.dec.dstate = .done) (hs : s.stepSeconds ≠ 0)
    (hd : s.digitsLegal = true) (hk : s.keyLen = 0) :
    exec .generate s = .next (s.clearCode.clearCounter.keyDiscard.raiseError .cryptoEmptyKey 0) := by
  simp_all [exec, execGenerate]

theorem exec_generate_issue {s : State} (h : s.dec.dstate = .done) (hs : s.stepSeconds ≠ 0)
    (hd : s.digitsLegal = true) (hk : s.keyLen ≠ 0) :
    exec .generate s = .next s.clearCode.clearCounter.counterCompute.issueRequest.recordOk := by
  simp_all [exec, execGenerate]

end Sys2Proof.Machine
end

