-- ==== Sys2Proof/Laws/PerInstr.lean ====
section
/-! SUPPORT. The family of statements made once per command: its encoding (spec/30_encoding.md R80, R81). -/

namespace Sys2Proof.Laws.Encoding

/-- The word of a command has its `OP` and `ARG`, `RSV` = 0, and is legal (R83). -/
def Statement (i : Instr) : Prop :=
  opField (encode i) = i.op ∧ rsvField (encode i) = 0 ∧ argField (encode i) = i.arg ∧ wordWf (encode i) = true

theorem of_fields {i : Instr} (h : ∀ w : Word, opField w = i.op → argField w = i.arg → opWf w && argWf w) :
    Statement i := by
  obtain ⟨ho, hr, ha⟩ := encode_fields i
  have hw := h _ ho ha
  simp only [Bool.and_eq_true] at hw
  exact ⟨ho, hr, ha, by simp [wordWf, hw.1, hw.2, rsvWf, hr]⟩

theorem nop : Statement .nop := of_fields fun _ ho ha => by simp [opWf, argWf, ho, ha, Instr.op, Instr.arg]
theorem decClr : Statement .decClr := of_fields fun _ ho ha => by simp [opWf, argWf, ho, ha, Instr.op, Instr.arg]
theorem decChar (c : Byte) : Statement (.decChar c) := of_fields fun _ ho _ => by simp [opWf, argWf, ho, Instr.op]
theorem decEnd : Statement .decEnd := of_fields fun _ ho ha => by simp [opWf, argWf, ho, ha, Instr.op, Instr.arg]
theorem ctrGen : Statement .ctrGen := of_fields fun _ ho ha => by simp [opWf, argWf, ho, ha, Instr.op, Instr.arg]
theorem digExt : Statement .digExt := of_fields fun _ ho ha => by simp [opWf, argWf, ho, ha, Instr.op, Instr.arg]
theorem generate : Statement .generate := of_fields fun _ ho ha => by simp [opWf, argWf, ho, ha, Instr.op, Instr.arg]
theorem reset : Statement .reset := of_fields fun _ ho ha => by simp [opWf, argWf, ho, ha, Instr.op, Instr.arg]

end Sys2Proof.Laws.Encoding
end

