-- ==== Sys2Proof/Laws/Steps.lean ====
section
/-! SUPPORT. What a step can do, said once: `step_cases` for any step, and one equation per kind of turn. -/

namespace Sys2Proof.Machine

theorem reg_cmd_iff (idx : RegIdx) : Reg.ofIdx idx = .cmd ↔ idx = 0 := by revert idx; decide

theorem reg_ofIdx_cmd : Reg.ofIdx 0x00 = .cmd := rfl

/-- The operands of a command do not depend on the agents' fields. -/
theorem HostMoves.eq_with {s s0 : State} {a : HostAccess} (h : HostMoves s a s0) :
    ∃ hs ts, s.host = a :: hs ∧ s0 = { s with host := hs, turns := ts } := by
  obtain ⟨hs, e, ⟨-, rfl⟩ | ⟨ts, -, rfl⟩⟩ := h
  · exact ⟨hs, s.turns, e, rfl⟩
  · exact ⟨hs, ts, e, rfl⟩

theorem AgentMoves.eq_with {s s0 : State} {a : Turn} (h : AgentMoves s a s0) :
    ∃ ts, s0 = { s with turns := ts } := h.imp fun _ h => h.2

/-- A host read. -/
theorem step_read {s s0 : State} {idx : RegIdx} (h : HostMoves s (.read idx) s0) :
    step s = .next { s0 with hostRead := some (s.memRead idx) } := by
  obtain ⟨hs, e, ⟨ht, rfl⟩ | ⟨ts, ht, rfl⟩⟩ := h <;> (simp only [step, nextTurn, ht, takeTurn, hostStep, e]; rfl)

/-- A host write. -/
theorem step_write {s s0 : State} {idx : RegIdx} {w : Word} (h : HostMoves s (.write idx w) s0) :
    step s = memWrite idx w s0 := by
  obtain ⟨hs, e, ⟨ht, rfl⟩ | ⟨ts, ht, rfl⟩⟩ := h <;> simp only [step, nextTurn, ht, takeTurn, hostStep, e]

/-- A host write while `BUSY` = 1. -/
theorem memWrite_busy {s : State} (idx : RegIdx) (w : Word) (h : s.busy = true) : memWrite idx w s = .next s := by
  simp [memWrite, h]

/-- A host write to `CMD` while `BUSY` = 0. -/
theorem memWrite_cmd {s : State} (w : Word) (h : s.busy = false) : memWrite 0x00 w s = performCommand w s := by
  simp only [memWrite, h]
  rfl

/-- A host write to another register while `BUSY` = 0. -/
theorem memWrite_reg {s : State} {idx : RegIdx} (w : Word) (h : s.busy = false) (hi : idx ≠ 0) :
    memWrite idx w s = .next (s.storeReg w (Reg.ofIdx idx)) := by
  have hr : Reg.ofIdx idx ≠ .cmd := fun e => hi ((reg_cmd_iff idx).1 e)
  simp only [memWrite, h]
  split
  · contradiction
  · rfl

theorem HostMoves.busy_eq {s s0 : State} {a : HostAccess} (h : HostMoves s a s0) : s0.busy = s.busy := by
  obtain ⟨hs, ts, -, rfl⟩ := h.eq_with; rfl

theorem HostMoves.memRead_eq {s s0 : State} {a : HostAccess} (h : HostMoves s a s0) (idx : RegIdx) :
    s0.memRead idx = s.memRead idx := by
  obtain ⟨hs, ts, -, rfl⟩ := h.eq_with; rfl

/-- A dropped write (R71). -/
theorem step_write_busy {s s0 : State} {idx : RegIdx} {w : Word} (h : HostMoves s (.write idx w) s0)
    (hb : s.busy = true) : step s = .next s0 :=
  (step_write h).trans (memWrite_busy _ _ (h.busy_eq.trans hb))

/-- A write to a register other than `CMD`. -/
theorem step_store {s s0 : State} {idx : RegIdx} {w : Word} (h : HostMoves s (.write idx w) s0)
    (hb : s.busy = false) (hi : idx ≠ 0) : step s = .next (s0.storeReg w (Reg.ofIdx idx)) :=
  (step_write h).trans (memWrite_reg _ (h.busy_eq.trans hb) hi)

/-- A write to `CMD`. -/
theorem step_command {s s0 : State} {w : Word} (h : HostMoves s (.write 0x00 w) s0) (hb : s.busy = false) :
    step s = performCommand w s0 :=
  (step_write h).trans (memWrite_cmd _ (h.busy_eq.trans hb))

/-- The turn of an agent that is not the host. -/
theorem step_agent {s s0 : State} {a : Turn} (h : AgentMoves s a s0) : step s = takeTurn a s0 := by
  obtain ⟨ts, ht, rfl⟩ := h
  simp only [step, nextTurn, ht]

/-- Everything a step can do. -/
inductive StepCase (s t : State) : Prop
  /-- Nothing happens to the block: a read, a poll, a dropped write, a turn without effect. -/
  | quiet (h : List HostAccess) (ts : List Turn) (r : Option Word)
      (e : t = { s with host := h, turns := ts, hostRead := r })
  /-- A write to a register other than `CMD`. -/
  | store (idx : RegIdx) (w : Word) (s0 : State) (hb : s.busy = false) (hi : idx ≠ 0)
      (hm : HostMoves s (.write idx w) s0) (e : t = s0.storeReg w (Reg.ofIdx idx))
  /-- A command. -/
  | command (w : Word) (i : Instr) (s0 : State) (hb : s.busy = false) (hm : HostMoves s (.write 0x00 w) s0)
      (hd : decode w = .ok i) (e : exec i s0 = .next t)
  /-- An illegal word. -/
  | illegal (w : Word) (x : IllegalWord) (s0 : State) (hb : s.busy = false) (hm : HostMoves s (.write 0x00 w) s0)
      (hd : decode w = .error x) (e : t = s0.raiseError .illegalCmd 0)
  /-- The answer `OK`. -/
  | answerOk (q : HashRequest) (s0 : State) (hq : s.hreq = some q) (hm : AgentMoves s .hashOk s0)
      (e : t = hashAnswerOk (s.hmac q) s0)
  /-- The answer `FAIL`. -/
  | answerFail (q : HashRequest) (s0 : State) (hq : s.hreq = some q) (hm : AgentMoves s .hashFail s0)
      (e : t = hashAnswerFail s0)
  /-- The hardware reset. -/
  | hardReset (s0 : State) (hm : AgentMoves s .hardReset s0) (e : t = s0.resetBlock)

theorem hostStep_cases {s s1 t : State} (ts : List Turn) (e1 : s1 = { s with turns := ts })
    (hm : ∀ a hs, s.host = a :: hs → HostMoves s a { s with host := hs, turns := ts })
    (h : hostStep s1 = .next t) : StepCase s t := by
  subst e1
  rw [hostStep] at h
  split at h
  · cases h; exact .quiet s.host ts s.hostRead rfl
  · cases h; exact .quiet _ ts _ rfl
  · next idx w hs e =>
    have hm := hm _ _ e
    by_cases hb : s.busy = true
    · rw [memWrite_busy _ _ (by exact hb)] at h; cases h; exact .quiet hs ts s.hostRead rfl
    · have hb : s.busy = false := by simpa using hb
      by_cases hi : idx = 0
      · subst hi
        rw [memWrite_cmd _ (by exact hb), performCommand] at h
        split at h
        · next i hd => exact .command w i _ hb hm hd h
        · next x hd => cases h; exact .illegal w x _ hb hm hd rfl
      · rw [memWrite_reg _ (by exact hb) hi] at h; cases h; exact .store idx w _ hb hi hm rfl
  · split at h <;> (cases h; exact .quiet _ ts _ rfl)

/-- A step is one of the cases of `StepCase`. -/
theorem step_cases {s t : State} (h : step s = .next t) : StepCase s t := by
  simp only [step, nextTurn] at h
  split at h
  · next ht =>
    exact hostStep_cases (s1 := s) s.turns rfl (fun a hs e => ⟨hs, e, .inl ⟨ht, rfl⟩⟩) h
  · next x ts ht =>
    cases x with
    | host => exact hostStep_cases ts rfl (fun a hs e => ⟨hs, e, .inr ⟨ts, ht, rfl⟩⟩) h
    | hashOk =>
      simp only [takeTurn, hashStep] at h
      split at h
      · cases h; exact .quiet s.host ts s.hostRead rfl
      · next q hq => cases h; exact .answerOk q _ hq ⟨ts, ht, rfl⟩ rfl
    | hashFail =>
      simp only [takeTurn, hashStep] at h
      split at h
      · cases h; exact .quiet s.host ts s.hostRead rfl
      · next q hq => cases h; exact .answerFail q _ hq ⟨ts, ht, rfl⟩ rfl
    | hardReset => simp only [takeTurn] at h; cases h; exact .hardReset _ ⟨ts, ht, rfl⟩ rfl

/-! ### Runs of several steps -/

theorem runsTo_zero {s t : State} : RunsTo 0 s t ↔ t = s := by
  constructor
  · intro h; cases h; rfl
  · rintro rfl; rfl

theorem run_of_next (M : Host.Core) {n : Nat} {s u : M.State} (h : M.step s = .next u) :
    M.run (n + 1) s = M.run n u := by
  simp only [Host.Core.run, h]

theorem run_of_refused (M : Host.Core) {n : Nat} {s : M.State} {r : M.Refusal} (h : M.step s = .refused r) :
    M.run (n + 1) s = .refused r := by
  simp only [Host.Core.run, h]

theorem runsTo_succ {n : Nat} {s u t : State} (h : step s = .next u) : RunsTo (n + 1) s t ↔ RunsTo n u t := by
  simp only [RunsTo, run_of_next Sys2Proof.core (n := n) h]

theorem RunsTo.trans {m n : Nat} {s u t : State} (h1 : RunsTo m s u) (h2 : RunsTo n u t) : RunsTo (m + n) s t := by
  induction m generalizing s with
  | zero => rw [runsTo_zero] at h1; subst h1; simpa using h2
  | succ m ih =>
    rw [Nat.succ_add]
    cases hs : step s with
    | next v => rw [runsTo_succ hs] at h1 ⊢; exact ih h1
    | fault r => exact nomatch r
    | refused r =>
      rw [RunsTo, run_of_refused Sys2Proof.core (n := m) hs] at h1; cases h1

/-- What every step keeps holds along every run. -/
theorem RunsTo.keeps {P : State → Prop} (hP : ∀ s t, P s → step s = .next t → P t) {n : Nat} {s t : State}
    (h : RunsTo n s t) (hs : P s) : P t := by
  induction n generalizing s with
  | zero => rw [runsTo_zero] at h; exact h ▸ hs
  | succ n ih =>
    cases hu : step s with
    | next u => exact ih ((runsTo_succ hu).1 h) (hP s u hs hu)
    | fault r => exact nomatch r
    | refused r => rw [RunsTo, run_of_refused Sys2Proof.core (n := n) hu] at h; cases h

end Sys2Proof.Machine
end

