-- ==== Sys2Proof/Tests/Slice0.lean ====
section
/-! SUPPORT. Tests whose expected results are the spec's (spec/95_test_vectors.md by id, or the example of the rule
named), each one step; and for every obligation with hypotheses, values that meet them together. -/

namespace Sys2Proof.Tests

open Sys2Proof Sys2Proof.Machine

/-! ### Helpers -/

/-- The outcome is a next state that passes `p`. -/
def nextIs (o : Host.Outcome State Fault Refusal) (p : State → Bool) : Bool :=
  match o with
  | .next t => p t
  | .fault _ => false
  | .refused _ => false

/-- The `n` bytes of a number, most significant first, as the vectors write byte strings. -/
def hexBytes (n x : Nat) : List Byte := (List.range n).map (fun i => BitVec.ofNat 8 (x >>> (8 * (n - 1 - i))))

/-- The key `K` of spec/95_test_vectors.md. -/
def keyK : List Byte := hexBytes 10 0x48656c6c6f21deadbeef

/-- The digest of VG1. -/
def digestG1 : List Byte := hexBytes 20 0x853f79b6650a9e3c5a81f179a209253bcbbe7402

/-- The digest of RFC 4226 §5.4 (section 2.1). -/
def digestRfc : List Byte := hexBytes 20 0x1f8698690e02ca16618550ef7f19da8e945b555a

/-- After reset, with accesses and turns to come. -/
def fresh (host : List HostAccess) (turns : List Turn) : State :=
  { State.reset with host := host, turns := turns }

/-- After reset, with the decoder in a given state. -/
def withDec (dec : Decoder) (key : List Byte) : State :=
  { State.reset with dec := dec, keyLen := BitVec.ofNat 7 key.length, key := bytesOf 64 (fun i => key.getD i 0) }

/-- The decoder OPEN with pending bits. -/
def openDec (nbits : BitVec 3) (acc : Byte) (peq : Bool) (key : List Byte) : State :=
  withDec ⟨.opened, peq, nbits, acc, .ok, 0⟩ key

/-- A complete key, at `TIME` = 59. -/
def keyed (key : List Byte) : State := { withDec ⟨.done, false, 0, 0, .ok, 0⟩ key with timeLo := 59 }

/-- The failed decode of VD16. -/
def failed : State := withDec ⟨.error, false, 0, 0, .decBadchar, 0x31⟩ []

/-- A digest written by the host, with `DIGITS` = `d`. -/
def digested (g : List Byte) (len d : Nat) : State :=
  { State.reset with digest := bytesOf 64 (fun i => g.getD i 0), digestLen := BitVec.ofNat 8 len,
                     ctrl := ⟨true, BitVec.ofNat 4 d, 0⟩ }

/-- The request of VG1. -/
def requestG1 : HashRequest := ⟨0, keyK, [0, 0, 0, 0, 0, 0, 0, 1]⟩

/-- VG1 after phase 1, with the hash primitive at that request fixed to `g`. -/
def pending (g : List Byte) (turns : List Turn) : State :=
  { keyed keyK with ctrLo := 1, remain := 1, busy := true, hreq := some requestG1,
                    hashPoints := [⟨requestG1, g⟩], turns := turns }

/-- At a time and a step. -/
def timed (t : DWord) (step : Word) : State :=
  { State.reset with timeHi := t.extractLsb' 32 32, timeLo := t.extractLsb' 0 32, stepSeconds := step }

/-! ### Decoding: the words of R80, R81, field by field (VE1 to VE11) -/

theorem test_decode_decoder :
    decode (0b00000001#8 ++ 0b0000000000000000#16 ++ 0b00000000#8) = .ok .decClr ∧
    decode (0b00000010#8 ++ 0b0000000000000000#16 ++ 0b01001010#8) = .ok (.decChar 0x4A) ∧
    decode (0b00000010#8 ++ 0b0000000000000000#16 ++ 0b11111111#8) = .ok (.decChar 0xFF) ∧
    decode (0b00000011#8 ++ 0b0000000000000000#16 ++ 0b00000000#8) = .ok .decEnd := ⟨rfl, rfl, rfl, rfl⟩

theorem test_decode_counter_digits :
    decode (0b00010000#8 ++ 0b0000000000000000#16 ++ 0b00000000#8) = .ok .ctrGen ∧
    decode (0b00100000#8 ++ 0b0000000000000000#16 ++ 0b00000000#8) = .ok .digExt := ⟨rfl, rfl⟩

theorem test_decode_sequencer :
    decode (0b00000000#8 ++ 0b0000000000000000#16 ++ 0b00000000#8) = .ok .nop ∧
    decode (0b00110000#8 ++ 0b0000000000000000#16 ++ 0b00000000#8) = .ok .generate ∧
    decode (0b11111111#8 ++ 0b0000000000000000#16 ++ 0b00000000#8) = .ok .reset := ⟨rfl, rfl, rfl⟩

/-- `opWf` refuses VE7 and VE9. -/
theorem test_wf_unknown_op :
    opWf 0x04000000 = false ∧ decode 0x04000000 = .error .unknownOp ∧
    opWf 0xFE000000 = false ∧ decode 0xFE000000 = .error .unknownOp ∧ wordWf 0x04000000 = false := by
  refine ⟨by decide, rfl, by decide, rfl, by decide⟩

/-- `rsvWf` refuses VE3 and VE4. -/
theorem test_wf_reserved_bits :
    rsvWf 0x01000100 = false ∧ decode 0x01000100 = .error .reservedBits ∧
    rsvWf 0x0200FF41 = false ∧ decode 0x0200FF41 = .error .reservedBits ∧ wordWf 0x0200FF41 = false := by
  refine ⟨by decide, rfl, by decide, rfl, by decide⟩

/-- `argWf` refuses VE2 and VE11. -/
theorem test_wf_unused_arg :
    argWf 0x00000001 = false ∧ decode 0x00000001 = .error .unusedArg ∧
    argWf 0xFF000001 = false ∧ decode 0xFF000001 = .error .unusedArg ∧ wordWf 0xFF000001 = false := by
  refine ⟨by decide, rfl, by decide, rfl, by decide⟩

theorem test_table_word :
    decodeTableWord 32 0x02000041 = some (.decChar 0x41) ∧ decodeTableWord 32 0x30000000 = some .generate ∧
    decodeTableWord 32 0x30000001 = none := by decide

/-! ### The commands, one step each -/

/-- VS7 from VS6. -/
theorem test_decClr : nextIs (exec .decClr failed) (fun t => t.memRead 0x01 == 0 && t.memRead 0x06 == 0) = true := by
  decide

/-- VS2 from VS1. -/
theorem test_decChar_pack : nextIs (exec (.decChar 0x42) (openDec 5 9 false [])) (fun t =>
    t.memRead 0x06 == 0x00000120 && t.memRead 0x07 == 1 && t.memRead 0x20 == 0x48000000 && t.memRead 0x01 == 0) =
    true := by decide

/-- VS4 from VS3. -/
theorem test_decChar_pending : nextIs (exec (.decChar 0x53) (openDec 2 1 true [0x48])) (fun t =>
    t.memRead 0x01 == 0x003D0100 && t.memRead 0x06 == 0x3D010002 && t.memRead 0x07 == 0 && t.memRead 0x20 == 0) =
    true := by decide

/-- VD1, the last command. -/
theorem test_decEnd : nextIs (exec .decEnd (openDec 0 0 false keyK)) (fun t =>
    t.memRead 0x01 == 0x00000004 && t.memRead 0x06 == 1 && t.memRead 0x07 == 10 && t.memRead 0x22 == 0xBEEF0000) =
    true := by decide

/-- VD18, the last command. -/
theorem test_decEnd_empty : nextIs (exec .decEnd State.reset) (fun t =>
    t.memRead 0x01 == 0x00000200 && t.memRead 0x06 == 0x00020002) = true := by decide

/-- VC12. -/
theorem test_ctrGen : nextIs (exec .ctrGen (timed 0xFFFFFFFFFFFFFFFF 30)) (fun t =>
    t.memRead 0x08 == 0x08888888 && t.memRead 0x09 == 0x88888888 && t.memRead 0x0A == 15 && t.memRead 0x01 == 0) =
    true := by decide

/-- VC17. -/
theorem test_ctrGen_zero : nextIs (exec .ctrGen (timed 123 0)) (fun t =>
    t.memRead 0x01 == 0x00002000 && t.memRead 0x09 == 0 && t.memRead 0x0A == 0) = true := by decide

/-- VX3, VX11: ten digits, and one. -/
theorem test_digExt : nextIs (exec .digExt (digested (List.replicate 20 0xFF) 20 10)) (fun t =>
    t.memRead 0x01 == 2 && t.memRead 0x0C == 15 && t.memRead 0x0D == 0x7FFFFFFF && t.memRead 0x0F == 0x32313437 &&
    t.memRead 0x11 == 0x34370000) = true ∧
    nextIs (exec .digExt (digested digestRfc 20 1)) (fun t =>
    t.memRead 0x0D == 0x50EF7F19 && t.memRead 0x0E == 1 && t.memRead 0x0F == 0x31000000) = true := by decide

/-- VX5: the offset is that of byte 31. -/
theorem test_digExt_length : nextIs (exec .digExt (digested ((List.range 32).map (BitVec.ofNat 8)) 32 6)) (fun t =>
    t.memRead 0x0C == 15 && t.memRead 0x0D == 0x0F101112 && t.memRead 0x0E == 711186 &&
    t.memRead 0x0F == 0x37313131 && t.memRead 0x10 == 0x38360000) = true := by decide

/-- VG1, phase 1. -/
theorem test_generate : nextIs (exec .generate (keyed keyK)) (fun t =>
    t.memRead 0x01 == 0x00000005 && t.hreq == some requestG1 && t.memRead 0x09 == 1 && t.memRead 0x0A == 1) =
    true := by decide

/-- VG15: `STEP` is checked before `DIGITS` and the key's length. -/
theorem test_generate_order :
    nextIs (exec .generate { keyed [] with ctrl := ⟨false, 0, 0⟩, stepSeconds := 0 }) (fun t =>
    t.memRead 0x01 == 0x00002000 && t.memRead 0x06 == 0 && t.hreq == none) = true := by decide

/-- VG1, phase 2: the end state of P1. -/
theorem test_hashOk : nextIs (step (pending digestG1 [.hashOk])) (fun t =>
    t.memRead 0x01 == 0x00000002 && t.memRead 0x0B == 20 && t.memRead 0x34 == 0xCBBE7402 && t.memRead 0x0D == 0x79B6650A &&
    t.memRead 0x0E == 996554 && t.memRead 0x0F == 0x39393635 && t.memRead 0x10 == 0x35340000 && t.memRead 0x0A == 1 &&
    t.memRead 0x07 == 0 && t.memRead 0x20 == 0) = true := by decide

/-- VG13: an answer of 19 bytes. -/
theorem test_hashOk_short : nextIs (step (pending (digestG1.take 19) [.hashOk])) (fun t =>
    t.memRead 0x01 == 0x00002200 && t.memRead 0x0B == 0 && t.memRead 0x30 == 0 && t.memRead 0x09 == 0 &&
    t.memRead 0x0A == 0 && t.memRead 0x07 == 0) = true := by decide

/-- VG2. -/
theorem test_hashFail : nextIs (step (pending digestG1 [.hashFail])) (fun t =>
    t.memRead 0x01 == 0x00001100 && t.memRead 0x09 == 0 && t.memRead 0x0A == 0 && t.memRead 0x07 == 0 &&
    t.memRead 0x05 == 59) = true := by decide

/-- R185's example. -/
theorem test_nop : nextIs (exec .nop { State.reset with codeValid := true, err := .decBadchar, errChar := 1 })
    (fun t => t.memRead 0x01 == 0x00010102) = true := by decide

/-- VE10. -/
theorem test_reset : nextIs (exec .reset { keyed keyK with ctrl := ⟨false, 8, 2⟩, stepSeconds := 0, timeHi := 4 })
    (fun t => t.memRead 0x01 == 0 && t.memRead 0x02 == 0x61 && t.memRead 0x03 == 30 && t.memRead 0x04 == 0 &&
      t.memRead 0x20 == 0) = true := by decide

/-! ### The host's accesses -/

/-- P5: a `RESET` while busy is dropped. -/
theorem test_write_while_busy :
    nextIs (step { pending digestG1 [] with host := [.write 0x00 0xFF000000] }) (fun t =>
      t.memRead 0x01 == 0x00000005 && t.memRead 0x20 == 0x48656C6C && t.memRead 0x02 == 0x61) = true := by decide

/-- VE2. -/
theorem test_illegal_word : nextIs (step (fresh [.write 0x00 0x00000001] [])) (fun t =>
    t.memRead 0x01 == 0x00003000) = true := by decide

/-- R25: `CTRL` keeps its fields and drops its reserved bits. -/
theorem test_write_ctrl : nextIs (step (fresh [.write 0x02 0xFFFFFFBF] [])) (fun t =>
    t.memRead 0x02 == 0x000003B1) = true := by decide

/-- P3: a digest word, and its byte order. -/
theorem test_write_digest : nextIs (step (fresh [.write 0x33 0x7F19DA8E] [])) (fun t =>
    t.memRead 0x33 == 0x7F19DA8E && byteAt t.digest 12 == 0x7F && byteAt t.digest 15 == 0x8E) = true := by decide

/-- A read returns the word: P1's `rd STATUS` after phase 1. -/
theorem test_read : nextIs (step { pending digestG1 [] with host := [.read 0x01] }) (fun t =>
    t.hostRead == some 0x00000005) = true := by decide

/-- The command placed by `withFetchWord` runs first after reset: VE5. -/
theorem test_fetch_word : nextIs (step (State.reset.withFetchWord 32 0x020000FF)) (fun t =>
    t.memRead 0x01 == 0x00FF0100) = true := by decide

/-- The assembler's expansions (R87, P2, P3). -/
theorem test_assembler :
    Asm.decStr [0x6A, 0x3D] =
      [.write 0 0x01000000, .write 0 0x0200006A, .write 0 0x0200003D, .write 0 0x03000000] ∧
    Asm.wrTime 0x00000004A817C800 = [.write 4 4, .write 5 0xA817C800] ∧
    Asm.wrDigest (hexBytes 5 0x1f8698690e) = [.write 0x0B 5, .write 0x30 0x1F869869, .write 0x31 0x0E000000] := by
  decide

/-- R212: the classes by code. -/
theorem test_result_classes :
    ResultCode.decOverflow.cls = .decodeError ∧ ResultCode.cryptoEmptyKey.cls = .cryptoError ∧
    ResultCode.cryptoHashFail.cls = .cryptoError ∧ ResultCode.noKey.cls = .ownAddition ∧
    ResultCode.decNotOpen.cls = .ownAddition := by decide

/-- The source's function: VD13 and VD14 (`AB= =\n`, `AB=C`). -/
theorem test_reference_decode :
    Reference.decodeText [0x41, 0x42, 0x3D, 0x20, 0x3D, 0x0A] true = .bytes [0] ∧
    Reference.decodeText [0x41, 0x42, 0x3D, 0x43] true = .fail .decBadchar 0x3D := by decide

/-- The source's truncation and rendering: P2. -/
theorem test_reference_code : Reference.truncate (hexBytes 20 0x94f0674c91a7fd41f8b6caf3d500df19ce52c372) = 1733071271 ∧
    Reference.codeString (hexBytes 20 0x94f0674c91a7fd41f8b6caf3d500df19ce52c372) 6 =
      [0x30, 0x37, 0x31, 0x32, 0x37, 0x31] := by decide

/-! ### Witnesses: values that meet an obligation's hypotheses together, one for each clause -/

/-- It is the host's turn and one access is left. -/
theorem host_moves (s : State) (a : HostAccess) (rest : List HostAccess) :
    HostMoves { s with host := a :: rest, turns := [] } a { s with host := rest, turns := [] } :=
  ⟨rest, rfl, .inl ⟨rfl, rfl⟩⟩

/-- As `host_moves`, with a listed turn. -/
theorem host_moves_listed (s : State) (a : HostAccess) (rest : List HostAccess) (ts : List Turn) :
    HostMoves { s with host := a :: rest, turns := .host :: ts } a { s with host := rest, turns := ts } :=
  ⟨rest, rfl, .inr ⟨ts, rfl, rfl⟩⟩

/-- It is another agent's turn. -/
theorem agent_moves (s : State) (a : Turn) (ts : List Turn) :
    AgentMoves { s with turns := a :: ts } a { s with turns := ts } := ⟨ts, rfl, rfl⟩

theorem witness_RowDecidesCommand :
    (∃ r ∈ opcodeRows, r.admits 0x0200004A = true) ∧ (∃ r ∈ opcodeRows, r.admits 0x020000FF = true) ∧
    (∃ r ∈ opcodeRows, r.admits 0xFF000000 = true) ∧ (∀ r ∈ opcodeRows, r.admits 0xFF000001 = false) ∧
    (∀ r ∈ opcodeRows, r.admits 0x02000100 = false) := by decide

theorem witness_StepPerformsDecodedCommand :
    (∃ s s0, HostMoves s (.write 0x00 0x30000000) s0 ∧ s.busy = true) ∧
    (∃ s s0, HostMoves s (.write 0x00 0x020000FF) s0 ∧ s.busy = false ∧ decode 0x020000FF = .ok (.decChar 0xFF)) ∧
    (∃ s s0, HostMoves s (.write 0x00 0x01000100) s0 ∧ s.busy = false ∧
      decode 0x01000100 = .error .reservedBits) :=
  ⟨⟨_, _, host_moves (pending digestG1 []) _ [], rfl⟩, ⟨_, _, host_moves State.reset _ [], rfl, rfl⟩,
   ⟨_, _, host_moves_listed State.reset _ [] [.hashOk], rfl, rfl⟩⟩

/-- One word for each ground. -/
theorem witness_IllegalWordOnlyRecords : ∀ w ∈ [(0x04000000 : Word), 0x02000100, 0xFF000001],
    (∀ r ∈ opcodeRows, r.admits w = false) ∧ ∃ s s0, s.busy = false ∧ HostMoves s (.write 0x00 w) s0 :=
  fun w h => by
    refine ⟨?_, _, _, ?_, host_moves State.reset _ []⟩
    · simp only [List.mem_cons, List.not_mem_nil, or_false] at h
      rcases h with rfl | rfl | rfl <;> decide
    · rfl

theorem witness_BusyDropsEveryWrite :
    (∃ s s0, s.busy = true ∧ HostMoves s (.write 0x3F 0xFFFFFFFF) s0) ∧
    (∃ s s0, s.busy = true ∧ HostMoves s (.read 0x00) s0) :=
  ⟨⟨_, _, by rfl, host_moves (pending digestG1 []) _ []⟩, ⟨_, _, by rfl, host_moves (pending digestG1 []) _ []⟩⟩

theorem witness_ReadsChangeNothing : ∃ s s0, HostMoves s (.read 0x3F) s0 ∧ s.busy = true :=
  ⟨_, _, host_moves (pending digestG1 []) _ [], rfl⟩

/-- At the first and last index of each kind of register. -/
theorem witness_RegisterWriteReadsBack : ∀ idx ∈ [(0x01 : RegIdx), 0x02, 0x03, 0x05, 0x06, 0x0A, 0x0B, 0x0C, 0x11, 0x12,
    0x1F, 0x20, 0x2F, 0x30, 0x3F],
    idx ≠ 0x00 ∧ ∃ s s0, s.busy = false ∧ HostMoves s (.write idx 0xFFFFFFFF) s0 :=
  fun idx h => ⟨by revert idx; decide, _, _, by rfl, host_moves State.reset _ []⟩

theorem witness_ReservedReadsZero : ∀ idx ∈ [(0x12 : RegIdx), 0x1F],
    (0x12 ≤ idx ∧ idx ≤ 0x1F) ∧ ∃ s s0, s.busy = false ∧ HostMoves s (.write idx 1) s0 :=
  fun idx h => ⟨by revert idx; decide, _, _, by rfl, host_moves State.reset _ []⟩

theorem witness_WindowsAreBigEndian : 63 < 64 ∧ 11 < 12 := by decide

theorem witness_ResetValues : (∃ s s0 t, AgentMoves s .hardReset s0 ∧ step s = .next t ∧ s.busy = true) ∧
    (∃ s t, exec .reset s = .next t ∧ t.memRead 0x02 ≠ s.memRead 0x02) :=
  ⟨⟨_, _, _, agent_moves (pending digestG1 []) _ [], rfl, rfl⟩, ⟨digested digestRfc 20 8, _, rfl, by decide⟩⟩

theorem witness_BothResetsAgree : ∃ s s0, AgentMoves s .hardReset s0 ∧ s.hreq ≠ none :=
  ⟨_, _, agent_moves (pending digestG1 []) _ [], by decide⟩

/-- `KEY` is zero from `KEY_LEN` on. -/
theorem pending_b_zero (i : Nat) (hi : (pending digestG1 []).keyLen.toNat ≤ i) :
    byteAt (pending digestG1 []).key i = 0 := by
  show byteAt (bytesOf 64 _) i = 0
  rw [byteAt_bytesOf]
  split
  · exact List.getD_eq_default _ _ (by exact hi)
  · rfl

theorem pending_blockInv : BlockInv (pending digestG1 []) where
  a_acc := by decide
  b_len := by decide
  b_zero := pending_b_zero
  c_error := fun h => nomatch h
  d_fail := fun _ => ⟨rfl, rfl⟩
  e_done := fun _ => ⟨rfl, rfl, rfl⟩
  f_code := fun _ => ⟨rfl, rfl, rfl, rfl⟩
  g_busy := ⟨fun _ => nofun, fun _ => rfl⟩

theorem pending_requestInv : RequestInv (pending digestG1 []) := by
  rintro q hq
  cases hq
  refine ⟨rfl, rfl, rfl, rfl, by decide, by decide, by decide, rfl, by decide, by decide, by decide, by decide⟩

/-- The invariants hold while a request is outstanding. -/
theorem pending_inv (ts : List Turn) : BlockInv (pending digestG1 ts) ∧ RequestInv (pending digestG1 ts) :=
  have h := pending_blockInv
  ⟨⟨h.a_acc, h.b_len, h.b_zero, h.c_error, h.d_fail, h.e_done, h.f_code, h.g_busy⟩, pending_requestInv⟩

theorem witness_StepKeepsBlockInvariant : ∃ s t, BlockInv s ∧ step s = .next t ∧ t ≠ s :=
  ⟨pending digestG1 [.hashOk], _, (pending_inv _).1, rfl, by decide⟩

/-- One command, then a read. -/
theorem witness_ReachedStatesHaveInvariant : ∃ t,
    RunsTo 2 { State.reset with host := [.write 0x00 0x02000041, .read 0x06], turns := [], hashPoints := [] } t ∧
    t.dec.nbits = 5 := ⟨_, rfl, by decide⟩

theorem witness_StepKeepsRequestInvariant : ∃ s t, BlockInv s ∧ RequestInv s ∧ s.hreq ≠ none ∧ step s = .next t :=
  ⟨pending digestG1 [], _, (pending_inv _).1, (pending_inv _).2, by decide, rfl⟩

theorem witness_StepKeepsCodeFits : ∃ s t, CodeFits s ∧ step s = .next t ∧ t.code = 996554 :=
  ⟨pending digestG1 [.hashOk], _, by unfold CodeFits; decide, rfl, by decide⟩

theorem witness_CharacterClasses :
    Config.kp2fa.alphabet[31]? = some 0x37 ∧ (0x61 ≤ (0x7A : Byte).toNat ∧ (0x7A : Byte).toNat ≤ 0x7A) ∧
    (0x7A < (0x7B : Byte).toNat) ∧ ((0x60 : Byte).toNat < 0x61) := by decide

/-- One state for each case of `DEC_CHAR`, at the boundary values of `NBITS` and `KEY_LEN`. -/
theorem witness_DecCharByCase :
    (keyed keyK).dec.dstate = .done ∧ failed.dec.dstate = .error ∧
    (openDec 2 1 true [0x48]).dec.dstate = .opened ∧ (openDec 2 1 true [0x48]).dec.peq = true ∧
    isWS 0x0D = true ∧ isWS 0x53 = false ∧ (0x53 : Byte) ≠ 0x3D ∧
    (isWS 0x31 = false ∧ (0x31 : Byte) ≠ 0x3D ∧ upper 0x31 ∉ Config.kp2fa.alphabet) ∧
    Config.kp2fa.alphabet[25]? = some (upper 0x7A) ∧
    (3 ≤ (openDec 3 0 false (List.replicate 64 1)).dec.nbits.toNat ∧
      (openDec 3 0 false (List.replicate 64 1)).keyLen.toNat = 64) ∧
    (openDec 2 1 false (List.replicate 64 1)).dec.nbits.toNat < 3 ∧
    (3 ≤ (openDec 3 0 false (List.replicate 63 1)).dec.nbits.toNat ∧
      (openDec 3 0 false (List.replicate 63 1)).keyLen.toNat < 64) := by decide

theorem witness_DecEndByCase :
    (keyed keyK).dec.dstate = .done ∧ failed.dec.dstate = .error ∧
    (State.reset.dec.dstate = .opened ∧ State.reset.keyLen = 0 ∧ State.reset.ctrl.emptyErr = true) ∧
    ((openDec 0 0 false [7]).dec.dstate = .opened ∧ (openDec 0 0 false [7]).keyLen ≠ 0) := by decide

theorem witness_NopChangesNothing : (∃ s s0, HostMoves s (.write 0x00 0x00000000) s0 ∧ s.busy = true) ∧
    (∃ s s0, HostMoves s (.write 0x00 0x00000000) s0 ∧ s.busy = false) :=
  ⟨⟨_, _, host_moves (pending digestG1 []) _ [], rfl⟩, ⟨_, _, host_moves State.reset _ [], rfl⟩⟩

theorem witness_DecodeFailureIsSticky : failed.dec.dstate = .error ∧ failed.dec.derr.code = 0x01 := by decide

theorem witness_DecoderTransitions :
    (∃ t, step { failed with host := [.write 0x00 0x02000041] } = .next t ∧ t.dec = failed.dec) ∧
    (∃ t, step { failed with host := [.write 0x00 0x01000000] } = .next t ∧ t.dec ≠ failed.dec) :=
  ⟨⟨_, rfl, by decide⟩, ⟨_, rfl, by decide⟩⟩

/-- With a text that decodes and with one that does not. -/
theorem witness_SerialDecodeRefinesDecode :
    (∃ s : State, s.busy = false ∧ s.turns = [] ∧ s.host = Asm.decStr [0x4D, 0x59] ++ [Asm.cmd .generate]) ∧
    Reference.decodeText [0x4D, 0x59] true = .bytes [0x66] ∧
    Reference.decodeText [] true = .fail .decEmpty 0 ∧ Reference.decodeText [] false = .bytes [] :=
  ⟨⟨fresh (Asm.decStr [0x4D, 0x59] ++ [Asm.cmd .generate]) [], rfl, rfl, rfl⟩, by decide, by decide, by decide⟩

/-- At 103 and at 104 characters. -/
theorem witness_PackedLengths : ∀ m, (m = 103 ∨ m = 104) → ∃ (s : State) (text : List Byte), text.length = m ∧
    (∀ c ∈ text, upper c ∈ Config.kp2fa.alphabet) ∧ s.busy = false ∧ s.turns = [] ∧
    s.host = text.map (fun c => HostAccess.write 0x00 (encode (.decChar c))) ∧ KeyGone s := by
  intro m _
  refine ⟨fresh ((List.replicate m 0x61).map _) [], List.replicate m 0x61, by simp, ?_, rfl, rfl, rfl, rfl, rfl,
    byteAt_replicate_zero 64⟩
  intro c hc
  rw [List.eq_of_mem_replicate hc]; decide

/-- `m y`, which decodes, and `m1`, which does not. -/
theorem witness_DecodeIgnoresNormalisedParts : State.reset.busy = false ∧ State.reset.turns = [] ∧
    [0x6D, 0x20, 0x79].filter (fun c => !isWS c) = [0x6D, 0x79] ∧ [0x6D, 0x79].map upper = [0x4D, 0x59] ∧
    Reference.decodeText [0x6D, 0x20, 0x79] true = .bytes [0x66] ∧
    Reference.decodeText [0x6D, 0x31] true = .fail .decBadchar 0x31 := by decide

theorem witness_CtrGenByCase : (timed 59 30).stepSeconds ≠ 0 ∧ (timed 123 0).stepSeconds = 0 := by decide

/-- One time and step for each corner (a) to (g). -/
theorem witness_CounterCornerCases :
    (timed 5 1).stepSeconds = 1 ∧ (timed 29 30).time.toNat < (timed 29 30).stepSeconds.toNat ∧ (timed 0 30).time = 0 ∧
    (timed 60 30).time.toNat % (timed 60 30).stepSeconds.toNat = 0 ∧
    (timed 59 30).time.toNat % (timed 59 30).stepSeconds.toNat = (timed 59 30).stepSeconds.toNat - 1 ∧
    (timed 0xFFFFFFFFFFFFFFFF 30).time.toNat = 2 ^ 64 - 1 ∧
    2 ^ 32 * (timed 0x1E00000000 30).stepSeconds.toNat ≤ (timed 0x1E00000000 30).time.toNat ∧
    (timed 0 0xFFFFFFFF).stepSeconds.toNat = 2 ^ 32 - 1 ∧ (timed 123 0).stepSeconds = 0 ∧
    ∃ t, exec .ctrGen (timed 59 30) = .next t :=
  ⟨by decide, by decide, by decide, by decide, by decide, by decide, by decide, by decide, by decide, _, rfl⟩

/-- Two times in one window, and two one step apart. -/
theorem witness_CounterMonotoneInTime :
    (timed 30 30).stepSeconds ≠ 0 ∧ (timed 59 30).stepSeconds = (timed 30 30).stepSeconds ∧
    (∃ t1 t2, exec .ctrGen (timed 30 30) = .next t1 ∧ exec .ctrGen (timed 59 30) = .next t2) ∧
    (timed 30 30).time.toNat / 30 = (timed 59 30).time.toNat / 30 ∧
    (timed 59 30).time.toNat = (timed 29 30).time.toNat + (timed 29 30).stepSeconds.toNat :=
  ⟨by decide, by decide, ⟨_, _, rfl, rfl⟩, by decide, by decide⟩

/-- At the boundary values of `DIGITS` and of `DIGEST_LEN`. -/
theorem witness_DigExtByCase :
    (digested digestRfc 20 0).ctrl.digits.toNat < 1 ∧ 10 < (digested digestRfc 20 11).ctrl.digits.toNat ∧
    (digested digestRfc 19 1).digestLen.toNat < 20 ∧ 64 < (digested digestRfc 65 10).digestLen.toNat ∧
    (1 ≤ (digested digestRfc 20 1).ctrl.digits.toNat ∧ 20 ≤ (digested digestRfc 20 1).digestLen.toNat) ∧
    ((digested digestRfc 64 10).ctrl.digits.toNat ≤ 10 ∧ (digested digestRfc 64 10).digestLen.toNat ≤ 64) := by decide

theorem witness_AsciiReadsBackAsCode :
    (digested digestRfc 20 6).digitsLegal = true ∧ digestLenLegal (digested digestRfc 20 6).digestLen.toNat = true := by
  decide

/-- Two digests of 20 bytes that differ past the end. -/
theorem witness_ExtractionReadsInsideDigest :
    (digested digestRfc 20 6).digitsLegal = true ∧ digestLenLegal (digested digestRfc 20 6).digestLen.toNat = true ∧
    (digested digestRfc 20 6).digest ≠ (digested (digestRfc ++ [1]) 20 6).digest ∧
    (∀ i, i < 19 → byteAt (digested digestRfc 20 6).digest i = byteAt (digested (digestRfc ++ [1]) 20 6).digest i) ∧
    byteAt (digested digestRfc 20 6).digest (20 - 1) = byteAt (digested (digestRfc ++ [1]) 20 6).digest (20 - 1) := by
  decide

/-- All bytes 0xFF with ten digits and with one, and all bytes 0. -/
theorem witness_ExtractionValues :
    (∃ s t, s.digitsLegal = true ∧ digestLenLegal s.digestLen.toNat = true ∧ exec .digExt s = .next t ∧
      s.ctrl.digits = 10 ∧ ∀ k, k < 4 → byteAt s.digest (t.offset.toNat + k) = 0xFF) ∧
    (∃ s t, s.digitsLegal = true ∧ digestLenLegal s.digestLen.toNat = true ∧ exec .digExt s = .next t ∧
      s.ctrl.digits = 1 ∧ t.trunc = 0 ∧ t.trunc.toNat < 10 ^ (s.ctrl.digits.toNat - 1)) :=
  ⟨⟨digested (List.replicate 20 0xFF) 20 10, _, by decide, by decide, rfl, by decide, by decide⟩,
   ⟨digested (List.replicate 20 0) 20 1, _, by decide, by decide, rfl, by decide, by decide, by decide⟩⟩

/-- RFC 4226's counter 6 has offset 14; its counter 4 has offset 12, which is 4-aligned. -/
theorem witness_DigestWordIsTruncationRead :
    (truncOffset (digested (hexBytes 20 0xa904c900a64b35909874b33e61c5938a8e15ed1c) 20 6).digest 20).toNat = 12 ∧
    (digested (hexBytes 20 0xa904c900a64b35909874b33e61c5938a8e15ed1c) 20 6).digitsLegal = true := by decide

theorem witness_GenerateByCase :
    (openDec 5 9 false []).dec.dstate ≠ .done ∧ (keyed keyK).dec.dstate = .done ∧
    ({ keyed keyK with stepSeconds := 0 } : State).stepSeconds = 0 ∧ (keyed keyK).stepSeconds ≠ 0 ∧
    ({ keyed keyK with ctrl := ⟨true, 0, 0⟩ } : State).ctrl.digits.toNat < 1 ∧
    10 < ({ keyed keyK with ctrl := ⟨true, 11, 0⟩ } : State).ctrl.digits.toNat ∧
    (1 ≤ (keyed keyK).ctrl.digits.toNat ∧ (keyed keyK).ctrl.digits.toNat ≤ 10) ∧
    (keyed []).keyLen = 0 ∧ (keyed keyK).keyLen ≠ 0 := by decide

/-- Answers of 19, 20, 64 and 65 bytes. -/
theorem witness_HashOkAnswer : ∀ n ∈ [19, 20, 64, 65], ∃ s s0 q, s.hreq = some q ∧ AgentMoves s .hashOk s0 ∧
    (s.hmac q).length = n ∧ 1 ≤ s.ctrl.digits.toNat ∧ s.ctrl.digits.toNat ≤ 10 := by
  intro n _
  refine ⟨_, _, requestG1, ?_, agent_moves (pending (List.replicate n 1) []) _ [], ?_⟩
  · rfl
  · exact ⟨by show (List.replicate n _).length = n; simp, (by decide : 1 ≤ 6), (by decide : 6 ≤ 10)⟩

theorem witness_HashFailAnswer : ∃ s s0 q, s.hreq = some q ∧ AgentMoves s .hashFail s0 :=
  ⟨_, _, requestG1, by rfl, agent_moves (pending digestG1 []) _ []⟩

theorem witness_Sha1AnswerGivesCode : ∃ s s0 q, HashAgentConforms s ∧ RequestInv s ∧ s.hreq = some q ∧ q.alg = 0 ∧
    AgentMoves s .hashOk s0 :=
  ⟨pending digestG1 [.hashOk], _, requestG1, by unfold HashAgentConforms; decide, (pending_inv _).2, rfl, rfl,
    agent_moves (pending digestG1 []) _ []⟩

theorem witness_NoRequestNoAnswer : (∃ s s0, s.hreq = none ∧ AgentMoves s .hashOk s0) ∧
    (∃ s s0, s.hreq = none ∧ AgentMoves s .hashFail s0) ∧ (∃ s s0, AgentMoves s .hardReset s0 ∧ s.hreq ≠ none) :=
  ⟨⟨_, _, by rfl, agent_moves State.reset _ []⟩, ⟨_, _, by rfl, agent_moves State.reset _ []⟩,
   ⟨_, _, agent_moves (pending digestG1 []) _ [], by decide⟩⟩

theorem witness_BusyFreezesRegisters :
    (∃ s t, s.busy = true ∧ s.turns = [] ∧ step s = .next t) ∧
    (∃ s t, s.busy = true ∧ (∃ ts, s.turns = .host :: ts) ∧ step s = .next t) :=
  ⟨⟨{ pending digestG1 [] with host := [.write 0x00 0xFF000000] }, _, rfl, rfl, rfl⟩,
   ⟨{ pending digestG1 [.host] with host := [.write 0x03 0] }, _, rfl, ⟨[], rfl⟩, rfl⟩⟩

theorem witness_KeyDiscardedOnEveryOutcome :
    (openDec 5 9 false []).dec.dstate ≠ .done ∧ (keyed keyK).dec.dstate = .done ∧
    (∃ s s0, s.hreq ≠ none ∧ AgentMoves s .hashOk s0) ∧ (∃ s s0, s.hreq ≠ none ∧ AgentMoves s .hashFail s0) :=
  ⟨by decide, by decide, ⟨_, _, by decide, agent_moves (pending digestG1 []) _ []⟩,
   ⟨_, _, by decide, agent_moves (pending digestG1 []) _ []⟩⟩

theorem witness_OneKeyOneCode : ∃ s s0, s.hreq ≠ none ∧ AgentMoves s .hashOk s0 :=
  ⟨_, _, by decide, agent_moves (pending digestG1 []) _ []⟩

/-- A complete key and its `GENERATE` (VG1). -/
def asked : State := { keyed keyK with host := [Asm.cmd .generate] }

theorem asked_blockInv : BlockInv asked :=
  have h := pending_blockInv
  ⟨h.a_acc, h.b_len, h.b_zero, h.c_error, h.d_fail, h.e_done, h.f_code, ⟨nofun, fun h => absurd rfl h⟩⟩

theorem witness_EmptyKeyNeverHashed :
    ∃ t, BlockInv asked ∧ asked.hreq = none ∧ step asked = .next t ∧ t.hreq = some requestG1 :=
  ⟨_, asked_blockInv, rfl, rfl, by decide⟩

/-- The request of VG1 issued, and still outstanding after a read. -/
theorem witness_RequestOnlyByGenerate :
    (∃ t, BlockInv asked ∧ asked.hreq = none ∧ step asked = .next t ∧ t.hreq = some requestG1) ∧
    (∃ s t, BlockInv s ∧ s.hreq = some requestG1 ∧ step s = .next t ∧ t.hreq = some requestG1) :=
  ⟨witness_EmptyKeyNeverHashed, ⟨pending digestG1 [], _, pending_blockInv, rfl, rfl, rfl⟩⟩

theorem witness_NoPartialResults :
    (∃ s t, exec .ctrGen s = .next t ∧ t.err ≠ .ok) ∧ (∃ s t, exec .digExt s = .next t ∧ t.err ≠ .ok) ∧
    (∃ s t, exec .generate s = .next t ∧ t.err ≠ .ok) ∧
    (∃ s t, s.dec.dstate = .opened ∧ exec .decEnd s = .next t ∧ t.err ≠ .ok) ∧
    (∃ s t, s.dec.dstate = .opened ∧ exec (.decChar 0x31) s = .next t ∧ t.err ≠ .ok) ∧
    (∃ s s0 t, BlockInv s ∧ RequestInv s ∧ s.hreq ≠ none ∧ AgentMoves s .hashFail s0 ∧ step s = .next t ∧ t.err ≠ .ok) :=
  ⟨⟨timed 123 0, _, rfl, by decide⟩, ⟨digested digestRfc 19 6, _, rfl, by decide⟩, ⟨State.reset, _, rfl, by decide⟩,
   ⟨State.reset, _, rfl, rfl, by decide⟩, ⟨openDec 5 9 false [], _, rfl, rfl, by decide⟩,
   ⟨pending digestG1 [.hashFail], _, _, (pending_inv _).1, (pending_inv _).2, by decide,
    agent_moves (pending digestG1 []) _ [], rfl, by decide⟩⟩

/-- The times of S2: 59 and 30. -/
theorem witness_SameWindowSameCode :
    (keyed keyK).dec.dstate = .done ∧ (keyed keyK).stepSeconds ≠ 0 ∧ (keyed keyK).digitsLegal = true ∧
    (keyed keyK).keyLen ≠ 0 ∧ ({ keyed keyK with timeLo := 30 } : State).keyBytes = (keyed keyK).keyBytes ∧
    (keyed keyK).time.toNat / (keyed keyK).stepSeconds.toNat =
      ({ keyed keyK with timeLo := 30 } : State).time.toNat / (keyed keyK).stepSeconds.toNat ∧
    (keyed keyK).time ≠ ({ keyed keyK with timeLo := 30 } : State).time := by decide

/-- P1 from its `generate` on, with three polls before the answer. -/
theorem witness_GenerateComputesCode : ∃ (s : State) (rest : List HostAccess) (c : DWord),
    s.busy = false ∧ s.dec.dstate = .done ∧ s.stepSeconds ≠ 0 ∧ s.digitsLegal = true ∧ s.keyLen ≠ 0 ∧
    c.toNat = s.time.toNat / s.stepSeconds.toNat ∧ s.host = Asm.cmd .generate :: Asm.waitIdle :: rest ∧
    s.turns = .host :: (List.replicate 3 .host ++ [.hashOk]) ∧
    (s.hmac { alg := s.ctrl.alg, key := s.keyBytes, msg := be8 c }).length = 20 :=
  ⟨{ keyed keyK with host := [Asm.cmd .generate, Asm.waitIdle, Asm.rd 0x01], hashPoints := [⟨requestG1, digestG1⟩],
                     turns := [.host, .host, .host, .host, .hashOk] },
   [Asm.rd 0x01], 1, rfl, rfl, by decide, by decide, by decide, by decide, rfl, rfl, by decide⟩

theorem witness_WaitIdleEndsAfterAnswer : ∃ (s : State) (q : HashRequest), s.busy = true ∧ s.hreq = some q ∧
    s.host = [.waitIdle] ∧ s.turns = List.replicate 2 .host ++ [.hashFail] :=
  ⟨{ pending digestG1 [.host, .host, .hashFail] with host := [.waitIdle] }, requestG1, rfl, rfl, rfl, rfl⟩

/-- One host write for each register, and the two resets. -/
theorem witness_InputsChangeOnlyByHost :
    (∃ t, step (fresh [.write 0x02 0x81] []) = .next t ∧ t.memRead 0x02 ≠ State.reset.memRead 0x02) ∧
    (∃ t, step (fresh [.write 0x03 60] []) = .next t ∧ t.memRead 0x03 ≠ State.reset.memRead 0x03) ∧
    (∃ t, step (fresh [.write 0x04 1] []) = .next t ∧ t.memRead 0x04 ≠ State.reset.memRead 0x04) ∧
    (∃ t, step (fresh [.write 0x05 1] []) = .next t ∧ t.memRead 0x05 ≠ State.reset.memRead 0x05) ∧
    (∃ t, step { keyed keyK with turns := [.hardReset] } = .next t ∧ t.memRead 0x05 ≠ (keyed keyK).memRead 0x05) ∧
    (∃ t, step { keyed keyK with host := [.write 0x00 0xFF000000] } = .next t ∧
      t.memRead 0x05 ≠ (keyed keyK).memRead 0x05) :=
  ⟨⟨_, rfl, by decide⟩, ⟨_, rfl, by decide⟩, ⟨_, rfl, by decide⟩, ⟨_, rfl, by decide⟩, ⟨_, rfl, by decide⟩,
   ⟨_, rfl, by decide⟩⟩

theorem witness_CodeValidOnlyByExtraction :
    (∃ s t, step s = .next t ∧ s.codeValid = false ∧ t.codeValid = true ∧ s.busy = true) ∧
    (∃ s t, step s = .next t ∧ s.codeValid = false ∧ t.codeValid = true ∧ s.busy = false) :=
  ⟨⟨pending digestG1 [.hashOk], _, rfl, rfl, by decide, rfl⟩,
   ⟨{ digested digestRfc 20 6 with host := [.write 0x00 0x20000000] }, _, rfl, rfl, by decide, rfl⟩⟩

theorem witness_CommandFrames : ∃ s t, exec .generate s = .next t ∧ t.hreq ≠ s.hreq ∧ Instr.generate ≠ .reset :=
  ⟨keyed keyK, _, rfl, by decide, by decide⟩

theorem witness_AcceptedCharacterKeepsKey : ∃ s t, BlockInv s ∧ s.dec.dstate = .opened ∧
    exec (.decChar 0x42) s = .next t ∧ t.err = .ok ∧ t.keyLen ≠ s.keyLen := by
  refine ⟨openDec 5 9 false [], _, ?_, rfl, rfl, by decide, by decide⟩
  constructor
  · decide
  · decide
  · intro i _
    show byteAt (bytesOf 64 _) i = 0
    rw [byteAt_bytesOf]; split <;> rfl
  · exact fun h => nomatch h
  · exact fun _ => ⟨rfl, rfl⟩
  · exact fun h => nomatch h
  · exact fun _ => ⟨rfl, rfl, rfl, rfl⟩
  · exact ⟨nofun, fun h => absurd rfl h⟩

/-- Two pending requests with different keys. -/
theorem witness_FailedRequestForgetsKey : ∃ s1 s2 : State, s1.hreq ≠ none ∧ s2.hreq ≠ none ∧ s1.keyLen ≠ s2.keyLen ∧
    (∃ ts, s1.turns = .hashFail :: ts) ∧ s2.ctrl = s1.ctrl ∧ s2.stepSeconds = s1.stepSeconds ∧
    s2.timeHi = s1.timeHi ∧ s2.timeLo = s1.timeLo ∧ SameAgents s1 s2 :=
  ⟨pending digestG1 [.hashFail], { pending digestG1 [.hashFail] with keyLen := 1, hreq := some ⟨0, [1], []⟩ },
   by decide, by decide, by decide, ⟨[], rfl⟩, rfl, rfl, rfl, rfl, rfl, rfl, rfl, rfl⟩

theorem witness_TimeHalvesInEitherOrder : State.reset.busy = false ∧ State.reset.turns = [] := by decide

/-- The digest of 20 bytes, and the longest. -/
theorem witness_WrDigestStoresDigest : ∀ n ∈ [20, 64], ∃ (s : State) (g : List Byte), g.length = n ∧ g.length ≤ 64 ∧
    s.busy = false ∧ s.turns = [] ∧ s.host = Asm.wrDigest g := by
  intro n hn
  refine ⟨fresh (Asm.wrDigest (List.replicate n 1)) [], List.replicate n 1, by simp, ?_, rfl, rfl, rfl⟩
  rw [List.length_replicate]; revert n; decide

end Sys2Proof.Tests
end

section
/-! PROOFS of the statements on the state, its registers, its reset and its invariants (spec/10_state.md). -/

open Sys2Proof

namespace Sys2Proof.Machine

/-! ### What a command can do, said once -/

/-- R107: the decoder of a complete key, its padding mark and pending bits dropped. -/
def Decoder.finished (d : Decoder) : Decoder := { d with dstate := .done, peq := false, acc := 0, nbits := 0 }

/-- R106, R107: the commands that feed the decoder. -/
def Instr.FeedsDecoder (i : Instr) : Prop := i = .decEnd ∨ ∃ c, i = .decChar c

/-- Everything the command `i` can answer in state `s`, with the guards of each case. -/
inductive ExecCase (s : State) : Instr → State → Prop
  /-- R185. -/
  | nop : ExecCase s .nop s
  /-- R105. -/
  | decClr : ExecCase s .decClr s.decClear.recordOk
  /-- R106, R107: after DONE. -/
  | decNotOpen (i : Instr) (hi : Instr.FeedsDecoder i) (hd : s.dec.dstate = .done) :
      ExecCase s i (s.raiseError .decNotOpen 0)
  /-- R106, R107, R216: after ERROR. -/
  | decSticky (i : Instr) (hi : Instr.FeedsDecoder i) (hd : s.dec.dstate = .error) :
      ExecCase s i (s.raiseError s.dec.derr s.dec.dchar)
  /-- R106, R107: a failed decode. -/
  | decFailed (i : Instr) (hi : Instr.FeedsDecoder i) (code : ResultCode) (ch : Byte) (ho : s.dec.dstate = .opened)
      (hc : code ≠ .ok) : ExecCase s i (s.decFail code ch)
  /-- R106: whitespace. -/
  | decSkip (c : Byte) (ho : s.dec.dstate = .opened) (hw : isWS c = true) : ExecCase s (.decChar c) s.recordOk
  /-- R106: `=`. -/
  | decPad (ho : s.dec.dstate = .opened) :
      ExecCase s (.decChar padChar) { s with dec := { s.dec with peq := true } }.recordOk
  /-- R106: an alphabet character, past the overflow check. -/
  | decPack (c : Byte) (ho : s.dec.dstate = .opened) (hp : s.dec.peq = false) (ha : inAlphabet (upper c) = true)
      (hk : s.dec.nbits.toNat < 3 ∨ s.keyLen.toNat ≠ 64) :
      ExecCase s (.decChar c) (s.packValue (alphabetValue (upper c))).recordOk
  /-- R107: a complete key. -/
  | decDone (ho : s.dec.dstate = .opened) (hk : ¬ (s.keyLen = 0 ∧ s.ctrl.emptyErr = true)) :
      ExecCase s .decEnd { s with dec := s.dec.finished }.recordOk
  /-- R140. -/
  | ctrGenOk (hs : s.stepSeconds ≠ 0) : ExecCase s .ctrGen s.clearCode.counterCompute.recordOk
  /-- R140: `STEP` = 0. -/
  | ctrGenZero (hs : s.stepSeconds = 0) : ExecCase s .ctrGen (s.clearCode.clearCounter.raiseError .cfgStepZero 0)
  /-- R160: a check fails. -/
  | digExtBad (code : ResultCode) (hc : code ≠ .ok) : ExecCase s .digExt (s.clearCode.raiseError code 0)
  /-- R160. -/
  | digExtOk (hl : s.digitsLegal = true) (hg : digestLenLegal s.digestLen.toNat = true) :
      ExecCase s .digExt (s.clearCode.extract s.digestLen.toNat s.ctrl.digits.toNat).recordOk
  /-- R180: no key. -/
  | generateNoKey (hd : s.dec.dstate ≠ .done) :
      ExecCase s .generate (s.clearCode.clearCounter.raiseError .noKey 0)
  /-- R180: another check fails, and the key is discarded. -/
  | generateBad (code : ResultCode) (hd : s.dec.dstate = .done) (hc : code ≠ .ok) :
      ExecCase s .generate (s.clearCode.clearCounter.keyDiscard.raiseError code 0)
  /-- R180: the request is issued. -/
  | generateIssue (hd : s.dec.dstate = .done) (hs : s.stepSeconds ≠ 0) (hl : s.digitsLegal = true)
      (hk : s.keyLen ≠ 0) : ExecCase s .generate s.clearCode.clearCounter.counterCompute.issueRequest.recordOk
  /-- R186. -/
  | reset : ExecCase s .reset s.resetBlock

/-- R106, decoder OPEN. -/
theorem decCharOpen_cases {s : State} (c : Byte) (ho : s.dec.dstate = .opened) :
    ExecCase s (.decChar c) (decCharOpen c s) := by
  have failed (code : ResultCode) (ch : Byte) (hc : code ≠ .ok) : ExecCase s (.decChar c) (s.decFail code ch) :=
    .decFailed _ (.inr ⟨c, rfl⟩) code ch ho hc
  unfold decCharOpen decFeed
  split_ifs with hw hpad hpeq ha hfull
  · exact .decSkip c ho hw
  · subst hpad; exact .decPad ho
  · exact failed _ _ (by decide)
  · exact failed _ _ (by decide)
  · exact .decPack c ho (by simpa using hpeq) ha (by simp only at hfull; omega)
  · exact failed _ _ (by decide)

/-- R107, decoder OPEN. -/
theorem decEndOpen_cases {s : State} (ho : s.dec.dstate = .opened) : ExecCase s .decEnd (decEndOpen s) := by
  simp only [decEndOpen]
  split_ifs with hempty
  · exact .decFailed _ (.inl rfl) .decEmpty 0 ho (by decide)
  · exact .decDone ho hempty

/-- A command answers one of the cases of `ExecCase`. -/
theorem exec_cases {i : Instr} {s t : State} (h : exec i s = .next t) : ExecCase s i t := by
  cases i with
  | nop => cases h; exact .nop
  | decClr => cases h; exact .decClr
  | reset => cases h; exact .reset
  | decChar c =>
    cases hd : s.dec.dstate with
    | opened => rw [exec_decChar_open c hd] at h; cases h; exact decCharOpen_cases c hd
    | done => rw [exec_decChar_done c hd] at h; cases h; exact .decNotOpen _ (.inr ⟨c, rfl⟩) hd
    | error => rw [exec_decChar_error c hd] at h; cases h; exact .decSticky _ (.inr ⟨c, rfl⟩) hd
  | decEnd =>
    cases hd : s.dec.dstate with
    | opened => rw [exec_decEnd_open hd] at h; cases h; exact decEndOpen_cases hd
    | done => rw [exec_decEnd_done hd] at h; cases h; exact .decNotOpen _ (.inl rfl) hd
    | error => rw [exec_decEnd_error hd] at h; cases h; exact .decSticky _ (.inl rfl) hd
  | ctrGen =>
    by_cases hs : s.stepSeconds = 0
    · rw [exec_ctrGen_zero hs] at h; cases h; exact .ctrGenZero hs
    · rw [exec_ctrGen_ok hs] at h; cases h; exact .ctrGenOk hs
  | digExt =>
    cases hl : s.digitsLegal with
    | false => rw [exec_digExt_digits hl] at h; cases h; exact .digExtBad _ (by decide)
    | true =>
      cases hg : digestLenLegal s.digestLen.toNat with
      | false => rw [exec_digExt_length hl hg] at h; cases h; exact .digExtBad _ (by decide)
      | true => rw [exec_digExt_ok hl hg] at h; cases h; exact .digExtOk hl hg
  | generate =>
    by_cases hd : s.dec.dstate = .done
    · by_cases hs : s.stepSeconds = 0
      · rw [exec_generate_step hd hs] at h; cases h; exact .generateBad _ hd (by decide)
      · cases hl : s.digitsLegal with
        | false => rw [exec_generate_digits hd hs hl] at h; cases h; exact .generateBad _ hd (by decide)
        | true =>
          by_cases hk : s.keyLen = 0
          · rw [exec_generate_empty hd hs hl hk] at h; cases h; exact .generateBad _ hd (by decide)
          · rw [exec_generate_issue hd hs hl hk] at h; cases h; exact .generateIssue hd hs hl hk
    · rw [exec_generate_noKey hd] at h; cases h; exact .generateNoKey hd

/-- R85: a legal word is the word of the command it decodes to. -/
theorem eq_encode_of_decode {w : Word} {i : Instr} (h : decode w = .ok i) : w = encode i := by
  obtain ⟨ho, hr, ha⟩ := decode_fields h
  obtain ⟨ho', hr', ha'⟩ := encode_fields i
  exact word_ext_fields (ho.trans ho'.symm) (hr.trans hr'.symm) (ha.trans ha'.symm)

/-! ### What commands, answers and moves of an agent leave unchanged -/

/-- R106: `Pack` changes the decoder's pending bits, the key and its length only. -/
theorem packValue_frame (s : State) (v : BitVec 5) : ∃ acc nbits key len,
    s.packValue v = { s with dec := { s.dec with acc := acc, nbits := nbits }, key := key, keyLen := len } := by
  rcases Nat.lt_or_ge s.dec.nbits.toNat 3 with h | h
  · exact ⟨_, _, _, _, packValue_few v h⟩
  · exact ⟨_, _, _, _, packValue_many v h⟩

/-- R25 to R27: the inputs `CTRL`, `STEP`, `TIME_HI` and `TIME_LO` are the same in both states. -/
structure SameInputs (s t : State) : Prop where
  ctrl : t.ctrl = s.ctrl
  step : t.stepSeconds = s.stepSeconds
  timeHi : t.timeHi = s.timeHi
  timeLo : t.timeLo = s.timeLo

theorem SameInputs.memRead_eq {s t : State} (h : SameInputs s t) {idx : RegIdx}
    (hi : idx = 0x02 ∨ idx = 0x03 ∨ idx = 0x04 ∨ idx = 0x05) : t.memRead idx = s.memRead idx := by
  obtain rfl | rfl | rfl | rfl := hi
  · exact congrArg Ctrl.word h.ctrl
  · exact h.step
  · exact h.timeHi
  · exact h.timeLo

/-- R27: no command but `RESET` changes an input. -/
theorem exec_sameInputs {i : Instr} {s t : State} (h : exec i s = .next t) (hi : i ≠ .reset) : SameInputs s t := by
  cases exec_cases h with
  | reset => exact absurd rfl hi
  | decPack c =>
    obtain ⟨acc, nbits, key, len, e⟩ := packValue_frame s (alphabetValue (upper c))
    rw [e]; exact ⟨rfl, rfl, rfl, rfl⟩
  | _ => exact ⟨rfl, rfl, rfl, rfl⟩

/-- R108, R184: what `DecClear` and `KeyDiscard` leave. -/
theorem keyGone_of_cleared {s : State} (hd : s.dec = Decoder.cleared) (hl : s.keyLen = 0)
    (hk : s.key = Vector.replicate 64 0) : KeyGone s :=
  ⟨hd, hl, (eq_replicate_zero_iff s.key).1 hk⟩

/-- R182: an `OK` answer of a legal length. -/
theorem hashAnswerOk_legal {g : List Byte} (s : State) (h : digestLenLegal g.length = true) : hashAnswerOk g s =
    ((s.loadDigest g).extract g.length s.ctrl.digits.toNat).keyDiscard.endRequest.raiseError .ok 0 := if_pos h

/-- R182: an `OK` answer of another length. -/
theorem hashAnswerOk_badLength {g : List Byte} (s : State) (h : ¬ digestLenLegal g.length = true) : hashAnswerOk g s =
    s.clearDigest.clearCounter.keyDiscard.endRequest.raiseError .digestLenBad 0 := if_neg h

/-- R182, R184: an `OK` answer of any length ends the request, keeps the inputs and discards the key. -/
theorem hashAnswerOk_frame (g : List Byte) (s : State) :
    (hashAnswerOk g s).hreq = none ∧ SameInputs s (hashAnswerOk g s) ∧ KeyGone (hashAnswerOk g s) := by
  by_cases hl : digestLenLegal g.length = true
  · rw [hashAnswerOk_legal s hl]; exact ⟨rfl, ⟨rfl, rfl, rfl, rfl⟩, keyGone_of_cleared rfl rfl rfl⟩
  · rw [hashAnswerOk_badLength s hl]; exact ⟨rfl, ⟨rfl, rfl, rfl, rfl⟩, keyGone_of_cleared rfl rfl rfl⟩

theorem HostMoves.dec_eq {s s0 : State} {a : HostAccess} (h : HostMoves s a s0) : s0.dec = s.dec := by
  obtain ⟨hs, ts, -, rfl⟩ := h.eq_with; rfl

theorem HostMoves.hreq_eq {s s0 : State} {a : HostAccess} (h : HostMoves s a s0) : s0.hreq = s.hreq := by
  obtain ⟨hs, ts, -, rfl⟩ := h.eq_with; rfl

theorem HostMoves.code_eq {s s0 : State} {a : HostAccess} (h : HostMoves s a s0) :
    s0.codeValid = s.codeValid ∧ s0.code = s.code := by
  obtain ⟨hs, ts, -, rfl⟩ := h.eq_with; exact ⟨rfl, rfl⟩

theorem AgentMoves.code_eq {s s0 : State} {a : Turn} (h : AgentMoves s a s0) :
    s0.codeValid = s.codeValid ∧ s0.code = s.code := by
  obtain ⟨ts, rfl⟩ := h.eq_with; exact ⟨rfl, rfl⟩

theorem AgentMoves.memRead_eq {s s0 : State} {a : Turn} (h : AgentMoves s a s0) (idx : RegIdx) :
    s0.memRead idx = s.memRead idx := by
  obtain ⟨ts, rfl⟩ := h.eq_with; rfl

/-- R65: no host write stores in the code registers. -/
theorem storeReg_code (s : State) (w : Word) (r : Reg) :
    (s.storeReg w r).codeValid = s.codeValid ∧ (s.storeReg w r).code = s.code := by
  cases r <;> exact ⟨rfl, rfl⟩

/-! ### The words of the status registers, bit by bit (R24, R25, R28) -/

/-- R24: the layout of `STATUS`. -/
theorem statusWord_getLsbD (s : State) {i : Nat} (hi : i < 32) : s.statusWord.getLsbD i =
    if i = 0 then s.busy else if i = 1 then s.codeValid else if i = 2 then s.keyValid else if i < 8 then false
    else if i < 16 then s.err.code.getLsbD (i - 8) else if i < 24 then s.errChar.getLsbD (i - 16) else false := by
  show (0#8 ++ s.errChar ++ s.err.code ++ 0#5 ++ BitVec.ofBool s.keyValid ++ BitVec.ofBool s.codeValid ++
    BitVec.ofBool s.busy : BitVec (8 + 8 + 8 + 5 + 1 + 1 + 1)).getLsbD i = _
  simp only [BitVec.getLsbD_append]
  interval_cases i <;> simp

/-- R25: the layout of `CTRL`. -/
theorem ctrlWord_getLsbD (c : Ctrl) {i : Nat} (hi : i < 32) : c.word.getLsbD i =
    if i = 0 then c.emptyErr else if i < 4 then false else if i < 8 then c.digits.getLsbD (i - 4)
    else if i < 10 then c.alg.getLsbD (i - 8) else false := by
  show (0#22 ++ c.alg ++ c.digits ++ 0#3 ++ BitVec.ofBool c.emptyErr : BitVec (22 + 2 + 4 + 3 + 1)).getLsbD i = _
  simp only [BitVec.getLsbD_append]
  interval_cases i <;> simp

/-- R28: the layout of `DEC_STATUS`. -/
theorem decWord_getLsbD (d : Decoder) {i : Nat} (hi : i < 32) : d.word.getLsbD i =
    if i < 2 then d.dstate.code.getLsbD i else if i = 2 then d.peq else if i = 3 then false
    else if i < 7 then d.nbits.getLsbD (i - 4) else if i = 7 then false else if i < 16 then d.acc.getLsbD (i - 8)
    else if i < 24 then d.derr.code.getLsbD (i - 16) else d.dchar.getLsbD (i - 24) := by
  show (d.dchar ++ d.derr.code ++ d.acc ++ 0#1 ++ d.nbits ++ 0#1 ++ BitVec.ofBool d.peq ++ d.dstate.code :
    BitVec (8 + 8 + 8 + 1 + 3 + 1 + 1 + 2)).getLsbD i = _
  simp only [BitVec.getLsbD_append]
  interval_cases i <;> simp

/-- A field of a word is known from its bits. -/
theorem extractLsb'_eq_of_bits {len start : Nat} {w : Word} {x : BitVec len}
    (h : ∀ i < len, w.getLsbD (start + i) = x.getLsbD i) : w.extractLsb' start len = x := by
  apply BitVec.eq_of_getLsbD_eq; intro i hi
  simp [hi, h]

/-- R24: the fields of `STATUS`, `KEY_VALID` aside. -/
theorem statusWord_fields (s : State) :
    s.statusWord.getLsbD 0 = s.busy ∧ s.statusWord.getLsbD 1 = s.codeValid ∧
    s.statusWord.extractLsb' 8 8 = s.err.code ∧ s.statusWord.extractLsb' 16 8 = s.errChar := by
  refine ⟨statusWord_getLsbD s (by decide), statusWord_getLsbD s (by decide), ?_, ?_⟩ <;>
    (refine extractLsb'_eq_of_bits fun i hi => (statusWord_getLsbD s (by omega)).trans ?_
     interval_cases i <;> rfl)

/-- R25: the fields of `CTRL`. -/
theorem ctrlWord_fields (c : Ctrl) :
    c.word.getLsbD 0 = c.emptyErr ∧ c.word.extractLsb' 4 4 = c.digits ∧ c.word.extractLsb' 8 2 = c.alg := by
  refine ⟨ctrlWord_getLsbD c (by decide), ?_, ?_⟩ <;>
    (refine extractLsb'_eq_of_bits fun i hi => (ctrlWord_getLsbD c (by omega)).trans ?_
     interval_cases i <;> rfl)

/-- R28: the fields of `DEC_STATUS`. -/
theorem decWord_fields (d : Decoder) :
    d.word.extractLsb' 0 2 = d.dstate.code ∧ d.word.getLsbD 2 = d.peq ∧ d.word.extractLsb' 4 3 = d.nbits ∧
    d.word.extractLsb' 8 8 = d.acc ∧ d.word.extractLsb' 16 8 = d.derr.code ∧ d.word.extractLsb' 24 8 = d.dchar := by
  refine ⟨?_, decWord_getLsbD d (by decide), ?_, ?_, ?_, ?_⟩ <;>
    (refine extractLsb'_eq_of_bits fun i hi => (decWord_getLsbD d (by omega)).trans ?_
     interval_cases i <;> rfl)

/-- R24, R43(h): `STATUS.KEY_VALID` is the mirror of `DSTATE` = DONE. -/
theorem status_keyValid_iff (s : State) : (s.memRead 0x01).getLsbD 2 = true ↔ s.dec.dstate = .done := by
  show s.statusWord.getLsbD 2 = true ↔ _
  rw [statusWord_getLsbD s (by decide)]
  exact beq_iff_eq

/-- R211: the twelve numbers. -/
theorem code_mem (c : ResultCode) : c.code ∈
    [0x00#8, 0x01#8, 0x02#8, 0x03#8, 0x04#8, 0x10#8, 0x11#8, 0x12#8, 0x20#8, 0x21#8, 0x22#8, 0x30#8] := by
  cases c <;> decide

/-- R22: the reserved bits of the three words. -/
theorem status_words_reserved (s : State) :
    s.statusWord &&& 0xFF0000F8 = 0 ∧ s.ctrl.word &&& 0xFFFFFC0E = 0 ∧ s.dec.word &&& 0x00000088 = 0 := by
  refine ⟨BitVec.eq_of_getLsbD_eq fun i hi => ?_, BitVec.eq_of_getLsbD_eq fun i hi => ?_,
    BitVec.eq_of_getLsbD_eq fun i hi => ?_⟩
  · rw [BitVec.getLsbD_and, statusWord_getLsbD s hi]; interval_cases i <;> simp
  · rw [BitVec.getLsbD_and, ctrlWord_getLsbD s.ctrl hi]; interval_cases i <;> simp
  · rw [BitVec.getLsbD_and, decWord_getLsbD s.dec hi]; interval_cases i <;> simp

/-- R22: a zero-extended value reads 0 under a mask that leaves out its own bits. -/
theorem setWidth_and_eq_zero {n : Nat} (x : BitVec n) {m : Word} (hm : ∀ i < n, m.getLsbD i = false) :
    x.setWidth 32 &&& m = 0 := by
  apply BitVec.eq_of_getLsbD_eq; intro i hi
  rcases Nat.lt_or_ge i n with hn | hn
  · simp [hm i hn]
  · simp [hn]

/-! ### What a host write stores (R21, R65) -/

/-- R21: the registers a host may write, `CMD` aside. -/
def Reg.writable : Reg → Bool
  | .ctrl | .step | .timeHi | .timeLo | .digestLen | .digest _ => true
  | _ => false

/-- R21: the indices of the writable registers. -/
theorem writable_ofIdx_iff : ∀ idx : RegIdx, (Reg.ofIdx idx).writable = true ↔
    idx = 0x02 ∨ idx = 0x03 ∨ idx = 0x04 ∨ idx = 0x05 ∨ idx = 0x0B ∨ 0x30 ≤ idx := by decide

/-- R21: the words of `DIGEST`. -/
theorem ofIdx_digest : ∀ idx : RegIdx, 0x30 ≤ idx → Reg.ofIdx idx = .digest (idx.toNat - 0x30) := by decide

/-- R21: the reserved indices. -/
theorem ofIdx_reserved : ∀ idx : RegIdx, 0x12 ≤ idx → idx ≤ 0x1F → Reg.ofIdx idx = .reserved := by decide

/-- R65: a read-only or reserved register drops the write. -/
theorem storeReg_of_not_writable (s : State) (w : Word) {r : Reg} (h : r.writable = false) : s.storeReg w r = s := by
  cases r with
  | ctrl | step | timeHi | timeLo | digestLen | digest => cases h
  | _ => rfl

/-- R25: `CTRL` reads back the written word without its reserved bits. -/
theorem ctrl_word_ofWord (w : Word) : (Ctrl.ofWord w).word = w &&& 0x000003F1 := by
  apply BitVec.eq_of_getLsbD_eq; intro i hi
  rw [ctrlWord_getLsbD _ hi, BitVec.getLsbD_and]
  simp only [Ctrl.ofWord, BitVec.getLsbD_extractLsb']
  interval_cases i <;> simp

/-- R34: `DIGEST_LEN` reads back the low byte. -/
theorem low_byte_setWidth (w : Word) : (w.extractLsb' 0 8).setWidth 32 = w &&& 0x000000FF := by
  apply BitVec.eq_of_getLsbD_eq; intro i hi
  rw [BitVec.getLsbD_and]
  interval_cases i <;> simp

/-- R65: what an index reads after a host write of `w` to it. -/
theorem memRead_storeReg_same (s : State) (w : Word) (idx : RegIdx) :
    (s.storeReg w (Reg.ofIdx idx)).memRead idx =
      if idx = 0x02 then w &&& 0x000003F1
      else if idx = 0x03 ∨ idx = 0x04 ∨ idx = 0x05 then w
      else if idx = 0x0B then w &&& 0x000000FF
      else if 0x30 ≤ idx then w
      else s.memRead idx := by
  split_ifs with hctrl hin hlen hdig
  · subst hctrl; exact ctrl_word_ofWord w
  · obtain rfl | rfl | rfl := hin <;> rfl
  · subst hlen; exact low_byte_setWidth w
  · have hr := ofIdx_digest idx hdig
    have hk := ofIdx_digest_lt idx _ hr
    rw [State.memRead, hr]
    exact (windowWord_windowSet _ _ _ w (by omega)).trans (if_pos rfl)
  · have hr : (Reg.ofIdx idx).writable = false := by
      rw [← Bool.not_eq_true, writable_ofIdx_iff]; tauto
    rw [storeReg_of_not_writable s w hr]

/-- R65: a host write leaves what every other index reads. -/
theorem memRead_storeReg_other (s : State) (w : Word) {idx j : RegIdx} (h : j ≠ idx) :
    (s.storeReg w (Reg.ofIdx idx)).memRead j = s.memRead j := by
  by_cases hr : Reg.ofIdx idx = .reserved
  · rw [hr]; rfl
  · exact readReg_storeReg_other s w _ _ (fun e => h (ofIdx_inj idx j e.symm hr)) fun k hk => ofIdx_digest_lt idx k hk

/-! ### The block's invariant (R43) -/

/-- R44: the state after reset has the invariant. -/
theorem blockInv_reset : BlockInv State.reset where
  a_acc := by decide
  b_len := by decide
  b_zero := fun i _ => byteAt_replicate_zero 64 i
  c_error := nofun
  d_fail := fun _ => ⟨rfl, rfl⟩
  e_done := nofun
  f_code := fun _ => ⟨rfl, rfl, rfl, rfl⟩
  g_busy := ⟨nofun, fun h => absurd rfl h⟩

theorem blockInv_resetBlock (s : State) : BlockInv s.resetBlock :=
  blockInv_reset.congr rfl rfl rfl rfl rfl rfl rfl rfl rfl rfl

/-- R106: `=` in an OPEN decoder. -/
theorem BlockInv.padSeen {s : State} (h : BlockInv s) (ho : s.dec.dstate = .opened) :
    BlockInv { s with dec := { s.dec with peq := true } } := by
  obtain ⟨ha, hb1, hb2, hc, hd, he, hf, hg⟩ := h
  constructor <;> simp_all

/-- R107: a complete key leaves no pending bit. -/
theorem BlockInv.finished {s : State} (h : BlockInv s) (ho : s.dec.dstate = .opened) :
    BlockInv { s with dec := s.dec.finished } := by
  obtain ⟨ha, hb1, hb2, hc, hd, he, hf, hg⟩ := h
  constructor <;> simp_all [Decoder.finished]

/-- Every command keeps the block's invariant. -/
theorem BlockInv.exec {s t : State} {i : Instr} (h : BlockInv s) (e : exec i s = .next t) : BlockInv t := by
  cases exec_cases e with
  | nop => exact h
  | decClr => exact h.decClear.raiseError _ _
  | decNotOpen | decSticky | decSkip => exact h.raiseError _ _
  | decFailed _ _ code ch ho hc => exact h.decFail ch hc
  | decPad ho => exact (h.padSeen ho).raiseError _ _
  | decPack c ho hp ha hk =>
    have hlen := h.b_len
    exact (h.packValue _ ho (by omega)).raiseError _ _
  | decDone ho => exact (h.finished ho).raiseError _ _
  | ctrGenOk => exact h.clearCode.counterCompute.raiseError _ _
  | ctrGenZero | generateNoKey => exact h.clearCode.clearCounter.raiseError _ _
  | digExtBad => exact h.clearCode.raiseError _ _
  | digExtOk => exact (h.clearCode.extract _ _).raiseError _ _
  | generateBad => exact h.clearCode.clearCounter.decClear.raiseError _ _
  | generateIssue => exact h.clearCode.clearCounter.counterCompute.issueRequest.raiseError _ _
  | reset => exact blockInv_resetBlock s

theorem BlockInv.hashAnswerOk {s : State} (h : BlockInv s) (g : List Byte) : BlockInv (hashAnswerOk g s) := by
  by_cases hl : digestLenLegal g.length = true
  · rw [hashAnswerOk_legal s hl]
    exact ((h.loadDigest g).extract _ _).decClear.endRequest.raiseError _ _
  · rw [hashAnswerOk_badLength s hl]
    exact h.clearDigest.clearCounter.decClear.endRequest.raiseError _ _

theorem BlockInv.hashAnswerFail {s : State} (h : BlockInv s) : BlockInv (hashAnswerFail s) :=
  h.clearDigest.clearCounter.clearCode.decClear.endRequest.raiseError _ _

theorem BlockInv.hostMoves {s s0 : State} {a : HostAccess} (h : BlockInv s) (hm : HostMoves s a s0) :
    BlockInv s0 := by
  obtain ⟨hs, ts, -, rfl⟩ := hm.eq_with
  exact h.withAgents hs ts s.hostRead

theorem BlockInv.agentMoves {s s0 : State} {a : Turn} (h : BlockInv s) (hm : AgentMoves s a s0) : BlockInv s0 := by
  obtain ⟨ts, rfl⟩ := hm.eq_with
  exact h.withAgents s.host ts s.hostRead

/-- Every step keeps the block's invariant. -/
theorem BlockInv.step {s t : State} (h : BlockInv s) (e : step s = .next t) : BlockInv t := by
  cases step_cases e with
  | quiet a ts r e => exact e ▸ h.withAgents a ts r
  | store idx w s0 hb hi hm e => exact e ▸ (h.hostMoves hm).storeReg w _
  | command w i s0 hb hm hd e => exact (h.hostMoves hm).exec e
  | illegal w x s0 hb hm hd e => exact e ▸ (h.hostMoves hm).raiseError _ _
  | answerOk q s0 hq hm e => exact e ▸ (h.agentMoves hm).hashAnswerOk _
  | answerFail q s0 hq hm e => exact e ▸ (h.agentMoves hm).hashAnswerFail
  | hardReset s0 hm e => exact e ▸ blockInv_resetBlock s0

/-- R43(g): while `BUSY` = 0 no request is outstanding. -/
theorem BlockInv.hreq_eq_none {s : State} (h : BlockInv s) (hb : s.busy = false) : s.hreq = none := by
  by_contra hq
  exact Bool.false_ne_true (hb.symm.trans (h.g_busy.2 hq))

/-- Settles O17: every operation keeps the invariant, so every command, answer and store does. -/
theorem stepKeepsBlockInvariant : Obligations.StepKeepsBlockInvariant := by
  intro s t h e
  exact ⟨h.step e, Nat.le_of_lt_succ t.dec.nbits.isLt, status_keyValid_iff t⟩

/-! ### The invariant of an outstanding request (R181) -/

theorem requestInv_of_none {s : State} (h : s.hreq = none) : RequestInv s := by
  intro q hq; rw [h] at hq; cases hq

/-- R180: the request that `GENERATE` issues is the one its registers name. -/
theorem requestInv_issue {s : State} (h : BlockInv s) (hd : s.dec.dstate = .done) (hs : s.stepSeconds ≠ 0)
    (hl : s.digitsLegal = true) (hk : s.keyLen ≠ 0) :
    RequestInv s.clearCode.clearCounter.counterCompute.issueRequest.recordOk := by
  intro q hq
  cases hq
  have hpos : 0 < s.keyLen.toNat := Nat.pos_of_ne_zero fun e => hk (BitVec.eq_of_toNat_eq e)
  exact ⟨rfl, rfl, hd, hl, hs, hpos, h.b_len, rfl, rfl, rfl,
    ctr_counterCompute_toNat s.clearCode.clearCounter, remain_counterCompute_toNat s.clearCode.clearCounter hs⟩

/-- A command from a state without a request leaves none, or the one `GENERATE` issues. -/
theorem requestInv_exec {s t : State} {i : Instr} (h : BlockInv s) (hq : s.hreq = none) (e : exec i s = .next t) :
    RequestInv t := by
  cases exec_cases e with
  | generateIssue hd hs hl hk => exact requestInv_issue h hd hs hl hk
  | decPack c =>
    obtain ⟨acc, nbits, key, len, e⟩ := packValue_frame s (alphabetValue (upper c))
    rw [e]; exact requestInv_of_none hq
  | reset => exact requestInv_of_none rfl
  | _ => exact requestInv_of_none hq

/-- Every step keeps the invariant of an outstanding request. -/
theorem RequestInv.step {s t : State} (h : RequestInv s) (hB : BlockInv s) (e : step s = .next t) : RequestInv t := by
  cases step_cases e with
  | quiet a ts r e => subst e; exact h
  | store idx w s0 hb hi hm e =>
    have hq := hm.hreq_eq.trans (hB.hreq_eq_none hb)
    exact requestInv_of_none (e ▸ (storeReg_frame s0 w _).1.trans hq)
  | command w i s0 hb hm hd e => exact requestInv_exec (hB.hostMoves hm) (hm.hreq_eq.trans (hB.hreq_eq_none hb)) e
  | illegal w x s0 hb hm hd e =>
    have hq := hm.hreq_eq.trans (hB.hreq_eq_none hb)
    exact requestInv_of_none (e ▸ hq)
  | answerOk q s0 hq hm e => exact requestInv_of_none (e ▸ (hashAnswerOk_frame _ s0).1)
  | answerFail q s0 hq hm e => exact requestInv_of_none (e ▸ rfl)
  | hardReset s0 hm e => exact requestInv_of_none (e ▸ rfl)

/-- Settles O18, along the run: both invariants hold at its start, and every step keeps them. -/
theorem reachedStatesHaveInvariant : Obligations.ReachedStatesHaveInvariant := by
  intro n host turns points t h
  obtain ⟨hB, hR⟩ := h.keeps (P := fun s => BlockInv s ∧ RequestInv s)
    (fun s u hs e => ⟨hs.1.step e, hs.2.step hs.1 e⟩)
    ⟨blockInv_reset.congr rfl rfl rfl rfl rfl rfl rfl rfl rfl rfl, requestInv_of_none rfl⟩
  exact ⟨hB, hR, Nat.le_of_lt_succ t.dec.nbits.isLt, status_keyValid_iff t⟩

/-! ### The code fits 31 bits (R38) -/

theorem codeFits_of_zero {s : State} (h : s.code = 0) : CodeFits s := by
  rw [CodeFits, h]; decide

theorem CodeFits.of_eq {s t : State} (h : CodeFits s) (e : t.code = s.code) : CodeFits t := by
  rw [CodeFits, e]; exact h

/-- R161: an extracted code is at most the truncated value. -/
theorem codeFits_extract (s : State) (len d : Nat) : CodeFits (s.extract len d) := by
  rw [CodeFits, code_extract_toNat]
  exact lt_of_le_of_lt (Nat.mod_le _ _) (truncValue s.digest len).isLt

theorem CodeFits.exec {i : Instr} {s t : State} (h : CodeFits s) (e : exec i s = .next t) : CodeFits t := by
  cases exec_cases e with
  | nop | decClr | decNotOpen | decSticky | decFailed | decSkip | decPad | decDone => exact h
  | decPack c =>
    obtain ⟨acc, nbits, key, len, e⟩ := packValue_frame s (alphabetValue (upper c))
    rw [e]; exact h
  | digExtOk => exact codeFits_extract s.clearCode _ _
  | ctrGenOk | ctrGenZero | digExtBad | generateNoKey | generateBad | generateIssue | reset =>
    exact codeFits_of_zero rfl

theorem CodeFits.hashAnswerOk {s : State} (h : CodeFits s) (g : List Byte) : CodeFits (hashAnswerOk g s) := by
  by_cases hl : digestLenLegal g.length = true
  · rw [hashAnswerOk_legal s hl]; exact codeFits_extract (s.loadDigest g) _ _
  · rw [hashAnswerOk_badLength s hl]; exact h

/-- Settles O20: a step keeps `CODE`, clears it, or extracts it. -/
theorem stepKeepsCodeFits : Obligations.StepKeepsCodeFits := by
  intro s t h e
  cases step_cases e with
  | quiet a ts r e => exact h.of_eq (e ▸ rfl)
  | store idx w s0 hb hi hm e => exact h.of_eq (e ▸ (storeReg_code s0 w _).2.trans hm.code_eq.2)
  | command w i s0 hb hm hd e => exact (h.of_eq hm.code_eq.2).exec e
  | illegal w x s0 hb hm hd e => exact h.of_eq (e ▸ hm.code_eq.2)
  | answerOk q s0 hq hm e => exact e ▸ (h.of_eq hm.code_eq.2).hashAnswerOk _
  | answerFail q s0 hq hm e => exact codeFits_of_zero (e ▸ rfl)
  | hardReset s0 hm e => exact codeFits_of_zero (e ▸ rfl)

/-! ### Registers: reads, writes and reset -/

/-- Settles O9: a write stores in the one register at its index. -/
theorem registerWriteReadsBack : Obligations.RegisterWriteReadsBack := by
  intro s s0 idx w hb hi hm
  obtain ⟨hreq, -, -, hhost, hturns, hread, hpoints⟩ := storeReg_frame s0 w (Reg.ofIdx idx)
  refine ⟨_, step_store hm hb hi, ?_, fun j hj => ?_, hreq.trans hm.hreq_eq, hhost, hturns, hread, hpoints⟩
  · rw [memRead_storeReg_same, hm.memRead_eq]
  · rw [memRead_storeReg_other s0 w hj, hm.memRead_eq]

/-- Settles O10: by the register map, the layouts of the three status words and the widths of the other registers. -/
theorem reservedReadsZero : Obligations.ReservedReadsZero := by
  refine ⟨fun s idx h => ?_, fun s => ?_, fun s s0 idx w hb hlo hhi hm => ?_⟩
  · obtain rfl | ⟨hlo, hhi⟩ := h
    · rfl
    · rw [State.memRead, ofIdx_reserved idx hlo hhi]; rfl
  · obtain ⟨hstatus, hctrl, hdec⟩ := status_words_reserved s
    exact ⟨hstatus, hctrl, hdec, setWidth_and_eq_zero s.keyLen (by decide),
      setWidth_and_eq_zero s.digestLen (by decide), setWidth_and_eq_zero s.offset (by decide),
      setWidth_and_eq_zero s.trunc (by decide)⟩
  · have hne : idx ≠ 0 := by rintro rfl; revert hlo; decide
    rw [step_store hm hb hne, ofIdx_reserved idx hlo hhi]; rfl

/-- Settles O11, from the fields of the three words and R211's table. -/
theorem statusWordsDecompose : Obligations.StatusWordsDecompose := by
  intro s
  obtain ⟨hbusy, hcv, herr, hchar⟩ := statusWord_fields s
  obtain ⟨hempty, hdigits, halg⟩ := ctrlWord_fields s.ctrl
  obtain ⟨hdstate, hpeq, hnbits, hacc, hderr, hdchar⟩ := decWord_fields s.dec
  refine ⟨hbusy, hcv, status_keyValid_iff s, herr.trans ?_, hchar, herr ▸ code_mem s.err, hempty, hdigits, halg,
    (congrArg BitVec.toNat hdstate).trans ?_, hpeq, hnbits, hacc, hderr.trans ?_, hdchar⟩
  · cases s.err <;> rfl
  · cases s.dec.dstate <;> rfl
  · cases s.dec.derr <;> rfl

/-- R44: the word each index reads after reset. -/
theorem memRead_reset : ∀ idx : RegIdx, State.reset.memRead idx =
    if idx = 0x02 then 0x00000061 else if idx = 0x03 then 0x0000001E else 0 := by decide

/-- R240: after either reset each index reads as in `State.reset`. -/
theorem memRead_resetBlock (s : State) (idx : RegIdx) : s.resetBlock.memRead idx = State.reset.memRead idx := rfl

/-- Settles O14: both resets answer `resetBlock`, whose registers are those of `State.reset`. -/
theorem resetValues : Obligations.ResetValues := by
  rintro t (rfl | ⟨s, s0, hm, e⟩ | ⟨s, e⟩)
  · exact ⟨rfl, memRead_reset⟩
  · rw [step_agent hm] at e
    cases e
    exact ⟨rfl, fun idx => (memRead_resetBlock s0 idx).trans (memRead_reset idx)⟩
  · cases e
    exact ⟨rfl, fun idx => (memRead_resetBlock s idx).trans (memRead_reset idx)⟩

/-- Settles O15: after reset no request is outstanding, `CODE` is 0 and no hash point is listed. -/
theorem resetKeepsInvariants : Obligations.ResetKeepsInvariants :=
  ⟨blockInv_reset, requestInv_of_none rfl, codeFits_of_zero rfl, fun _ hp => absurd hp List.not_mem_nil⟩

/-! ### Whole-machine rules -/

/-- A command leaves a decoder that is not OPEN as it is, or OPEN and empty. -/
theorem exec_dec_kept_or_keyGone {i : Instr} {s t : State} (e : exec i s = .next t) (hd : s.dec.dstate ≠ .opened) :
    t.dec = s.dec ∨ KeyGone t := by
  cases exec_cases e with
  | decFailed _ _ _ _ ho | decSkip _ ho | decPad ho | decPack _ ho | decDone ho => exact absurd ho hd
  | decClr | generateBad | reset => exact .inr (keyGone_of_cleared rfl rfl rfl)
  | nop | decNotOpen | decSticky | ctrGenOk | ctrGenZero | digExtBad | digExtOk | generateNoKey | generateIssue =>
    exact .inl rfl

/-- Settles O26: outside OPEN a command keeps the decoder or clears it, and answers and resets clear it. -/
theorem decoderTransitions : Obligations.DecoderTransitions := by
  intro s t e hd
  cases step_cases e with
  | quiet a ts r e => exact .inl (e ▸ rfl)
  | store idx w s0 hb hi hm e =>
    obtain ⟨-, -, hdec, -⟩ := storeReg_frame s0 w (Reg.ofIdx idx)
    exact .inl (e ▸ hdec.trans hm.dec_eq)
  | command w i s0 hb hm hdw e =>
    rw [← hm.dec_eq] at hd ⊢
    exact exec_dec_kept_or_keyGone e hd
  | illegal w x s0 hb hm hdw e => exact .inl (e ▸ hm.dec_eq)
  | answerOk q s0 hq hm e => exact .inr (e ▸ (hashAnswerOk_frame _ s0).2.2)
  | answerFail q s0 hq hm e => exact .inr (e ▸ keyGone_of_cleared rfl rfl rfl)
  | hardReset s0 hm e => exact .inr (e ▸ keyGone_of_cleared rfl rfl rfl)

/-- Settles O53: every step but a write to the input and the two resets keeps what it reads. -/
theorem inputsChangeOnlyByHost : Obligations.InputsChangeOnlyByHost := by
  intro s t idx hidx e hne
  have kept {P : Prop} {s0 : State} (h : SameInputs s0 t) (h0 : s0.memRead idx = s.memRead idx) : P :=
    absurd ((h.memRead_eq hidx).trans h0) hne
  cases step_cases e with
  | quiet a ts r e => exact kept (s0 := s) (e ▸ ⟨rfl, rfl, rfl, rfl⟩) rfl
  | store j w s0 hb hi hm e =>
    subst e
    by_cases hj : idx = j
    · subst hj
      refine .inr ⟨hb, .inl ⟨w, s0, hm, (memRead_storeReg_same s0 w idx).trans ?_⟩⟩
      obtain rfl | rfl | rfl | rfl := hidx <;> rfl
    · exact absurd ((memRead_storeReg_other s0 w hj).trans (hm.memRead_eq idx)) hne
  | command w i s0 hb hm hd e =>
    by_cases hi : i = .reset
    · have hw : w = 0xFF000000 := (eq_encode_of_decode hd).trans (hi ▸ rfl)
      exact .inr ⟨hb, .inr ⟨s0, hw ▸ hm⟩⟩
    · exact kept (exec_sameInputs e hi) (hm.memRead_eq idx)
  | illegal w x s0 hb hm hd e => exact kept (s0 := s0) (e ▸ ⟨rfl, rfl, rfl, rfl⟩) (hm.memRead_eq idx)
  | answerOk q s0 hq hm e => exact kept (s0 := s0) (e ▸ (hashAnswerOk_frame _ s0).2.1) (hm.memRead_eq idx)
  | answerFail q s0 hq hm e => exact kept (s0 := s0) (e ▸ ⟨rfl, rfl, rfl, rfl⟩) (hm.memRead_eq idx)
  | hardReset s0 hm e => exact .inl ⟨s0, hm⟩

/-- R160: the one command that raises `CODE_VALID` is `DIG_EXT`, and it records `OK`. -/
theorem exec_codeValid_rises {i : Instr} {s t : State} (e : exec i s = .next t) (h0 : s.codeValid = false)
    (h1 : t.codeValid = true) : i = .digExt ∧ t.err = .ok := by
  have kept {P : Prop} (h : s.codeValid = true) : P := absurd (h0.symm.trans h) Bool.false_ne_true
  cases exec_cases e with
  | digExtOk => exact ⟨rfl, rfl⟩
  | nop | decClr | decNotOpen | decSticky | decFailed | decSkip | decPad | decDone => exact kept h1
  | decPack c =>
    obtain ⟨acc, nbits, key, len, e⟩ := packValue_frame s (alphabetValue (upper c))
    rw [e] at h1; exact kept h1
  | ctrGenOk | ctrGenZero | digExtBad | generateNoKey | generateBad | generateIssue | reset => cases h1

/-- R182: an `OK` answer that raises `CODE_VALID` records `OK`. -/
theorem hashAnswerOk_codeValid_rises {g : List Byte} {s : State} (h0 : s.codeValid = false)
    (h1 : (hashAnswerOk g s).codeValid = true) : (hashAnswerOk g s).err = .ok := by
  by_cases hl : digestLenLegal g.length = true
  · rw [hashAnswerOk_legal s hl]; rfl
  · rw [hashAnswerOk_badLength s hl] at h1
    exact absurd (h0.symm.trans h1) Bool.false_ne_true

/-- Settles O54: a step that is neither `DIG_EXT` nor an `OK` answer keeps `CODE_VALID` or clears it. -/
theorem codeValidOnlyByExtraction : Obligations.CodeValidOnlyByExtraction := by
  intro s t e h0 h1
  have kept {P : Prop} (h : t.codeValid = s.codeValid) : P :=
    absurd (h0.symm.trans (h.symm.trans h1)) Bool.false_ne_true
  cases step_cases e with
  | quiet a ts r e => exact kept (e ▸ rfl)
  | store j w s0 hb hi hm e => exact kept (e ▸ (storeReg_code s0 w _).1.trans hm.code_eq.1)
  | command w i s0 hb hm hd e =>
    obtain ⟨rfl, herr⟩ := exec_codeValid_rises e (hm.code_eq.1.trans h0) h1
    have hw : w = 0x20000000 := eq_encode_of_decode hd
    exact ⟨herr, .inr ⟨hb, s0, hw ▸ hm⟩⟩
  | illegal w x s0 hb hm hd e => exact kept (e ▸ hm.code_eq.1)
  | answerOk q s0 hq hm e =>
    subst e
    exact ⟨hashAnswerOk_codeValid_rises (hm.code_eq.1.trans h0) h1, .inl ⟨s0, hm, by simp [hq]⟩⟩
  | answerFail q s0 hq hm e => subst e; cases h1
  | hardReset s0 hm e => subst e; cases h1

end Sys2Proof.Machine
end

section
/-! PROOFS of the statements on the register space: reads, dropped writes and byte windows (spec/20_memory.md). -/

open Sys2Proof

namespace Sys2Proof.Machine

/-! ### Byte windows (R61) -/

/-- R61: byte `r`, from the left, of window word `k`. -/
theorem windowWord_extract {n : Nat} (v : Vector Byte n) (k : Nat) {r : Nat} (hr : r < 4) :
    (windowWord v k).extractLsb' (24 - 8 * r) 8 = byteAt v (4 * k + r) := by
  obtain ⟨h0, h1, h2, h3⟩ := be32_bytes (byteAt v (4 * k)) (byteAt v (4 * k + 1)) (byteAt v (4 * k + 2))
    (byteAt v (4 * k + 3))
  interval_cases r
  · exact h0
  · exact h1
  · exact h2
  · exact h3

/-- R61: byte `i` of a buffer is byte `i mod 4` of its word `floor(i/4)`. -/
theorem windowWord_byte {n : Nat} (v : Vector Byte n) (i : Nat) :
    (windowWord v (i / 4)).extractLsb' (24 - 8 * (i % 4)) 8 = byteAt v i :=
  (windowWord_extract v _ (Nat.mod_lt i (by decide))).trans (congrArg (byteAt v) (Nat.div_add_mod i 4))

/-- R61: at a 4-aligned byte a window word is the four bytes from there on. -/
theorem windowWord_aligned {n : Nat} (v : Vector Byte n) {i : Nat} (h : i % 4 = 0) :
    windowWord v (i / 4) = be32 (byteAt v i) (byteAt v (i + 1)) (byteAt v (i + 2)) (byteAt v (i + 3)) := by
  rw [windowWord, Nat.mul_div_cancel' (Nat.dvd_of_mod_eq_zero h)]

/-- R21: the indices of the words of `KEY` and `DIGEST`. -/
theorem ofIdx_key_digest_word : ∀ k < 16,
    Reg.ofIdx (BitVec.ofNat 6 (0x20 + k)) = .key k ∧ Reg.ofIdx (BitVec.ofNat 6 (0x30 + k)) = .digest k := by decide

/-- R21: the indices of the words of `CODE_ASCII`. -/
theorem ofIdx_codeAscii_word : ∀ k < 3, Reg.ofIdx (BitVec.ofNat 6 (0x0F + k)) = .codeAscii k := by decide

theorem memRead_key_word (s : State) {k : Nat} (h : k < 16) :
    s.memRead (BitVec.ofNat 6 (0x20 + k)) = windowWord s.key k :=
  congrArg s.readReg (ofIdx_key_digest_word k h).1

theorem memRead_digest_word (s : State) {k : Nat} (h : k < 16) :
    s.memRead (BitVec.ofNat 6 (0x30 + k)) = windowWord s.digest k :=
  congrArg s.readReg (ofIdx_key_digest_word k h).2

theorem memRead_codeAscii_word (s : State) {k : Nat} (h : k < 3) :
    s.memRead (BitVec.ofNat 6 (0x0F + k)) = windowWord s.ascii k :=
  congrArg s.readReg (ofIdx_codeAscii_word k h)

/-- Settles O12: each window reads the words of its buffer, and a word's bytes are big-endian. -/
theorem windowsAreBigEndian : Obligations.WindowsAreBigEndian := by
  refine fun s i => ⟨fun hi => ?_, fun hi => ?_, fun hi => ?_⟩
  · rw [memRead_key_word s (by omega), windowWord_byte]
  · rw [memRead_digest_word s (by omega), windowWord_byte]
  · rw [memRead_codeAscii_word s (by omega), windowWord_byte]

/-! ### The message (R62) -/

/-- R62: the bytes of `BE8` give the value back. -/
theorem be8_value (c : DWord) : (be8 c).foldl (fun n b => n * 256 + b.toNat) 0 = c.toNat := by
  have hc := c.isLt
  simp only [be8, List.foldl_cons, List.foldl_nil, BitVec.extractLsb'_toNat, Nat.shiftRight_eq_div_pow]
  omega

/-- R62, R32: `BE8` of two words is the bytes of the high word, then those of the low word. -/
theorem be8_append (hi lo : Word) {k : Nat} (hk : k < 4) :
    (be8 (hi ++ lo))[k]? = some (hi.extractLsb' (24 - 8 * k) 8) ∧
    (be8 (hi ++ lo))[4 + k]? = some (lo.extractLsb' (24 - 8 * k) 8) := by
  have high {a : Nat} (ha : 32 ≤ a) : (hi ++ lo : DWord).extractLsb' a 8 = hi.extractLsb' (a - 32) 8 :=
    BitVec.extractLsb'_append_eq_of_le ha
  have low {a : Nat} (ha : a + 8 ≤ 32) : (hi ++ lo : DWord).extractLsb' a 8 = lo.extractLsb' a 8 :=
    BitVec.extractLsb'_append_eq_of_add_le ha
  interval_cases k <;> exact ⟨congrArg some (high (by decide)), congrArg some (low (by decide))⟩

/-- R32: the two words of the counter are its quotient and its rest by 2^32. -/
theorem ctr_words_toNat (s : State) :
    s.ctrHi.toNat = s.ctr.toNat / 2 ^ 32 ∧ s.ctrLo.toNat = s.ctr.toNat % 2 ^ 32 := by
  have hlo := s.ctrLo.isLt
  have hctr : s.ctr.toNat = s.ctrHi.toNat * 2 ^ 32 + s.ctrLo.toNat := by
    rw [State.ctr, BitVec.toNat_append, ← Nat.shiftLeft_add_eq_or_of_lt hlo, Nat.shiftLeft_eq]
  omega

/-- Settles O33: `BE8` by value, and by the bytes of the two words whose concatenation is the counter. -/
theorem messageIsCounterBigEndian : Obligations.MessageIsCounterBigEndian :=
  fun s c => ⟨rfl, be8_value c, fun _ hk => be8_append s.ctrHi s.ctrLo hk, ctr_words_toNat s⟩

/-! ### The word the truncation reads (R161) -/

/-- R37: zero-extending the low 31 bits of a word clears its sign bit. -/
theorem low31_setWidth (w : Word) : (w.setWidth 31).setWidth 32 = w &&& 0x7FFFFFFF := by
  apply BitVec.eq_of_toNat_eq
  rw [BitVec.toNat_and, show (0x7FFFFFFF : Word).toNat = 2 ^ 31 - 1 from rfl, Nat.and_two_pow_sub_one_eq_mod]
  simp only [BitVec.toNat_setWidth]; omega

/-- Settles O38: `TRUNC` is the four bytes at the offset without the sign bit, and they are one word of `DIGEST`. -/
theorem digestWordIsTruncationRead : Obligations.DigestWordIsTruncationRead := by
  intro s hd hl h4
  refine ⟨_, exec_digExt_ok hd hl, ?_⟩
  have hoff := (truncOffset s.digest s.digestLen.toNat).isLt
  show (truncValue s.digest s.digestLen.toNat).setWidth 32 =
    s.memRead (BitVec.ofNat 6 (0x30 + (truncOffset s.digest s.digestLen.toNat).toNat / 4)) &&& 0x7FFFFFFF
  rw [memRead_digest_word s (by omega), windowWord_aligned s.digest h4]
  exact low31_setWidth _

/-! ### Host accesses (R60, R65, R71) -/

/-- Settles O7, by the two equations of a host's turn: a write while `BUSY` = 1, and a read at any time. -/
theorem busyDropsEveryWrite : Obligations.BusyDropsEveryWrite :=
  fun _ _ _ hb => ⟨fun _ hm => step_write_busy hm hb, step_read⟩

/-- Settles O8: a read's turn changes only what the host holds, which no register reads. -/
theorem readsChangeNothing : Obligations.ReadsChangeNothing :=
  fun _ _ _ hm => ⟨_, step_read hm, rfl, hm.memRead_eq, hm.hreq_eq⟩

end Sys2Proof.Machine
end

section
/-! PROOFS of the statements on command words (spec/30_encoding.md). -/

open Sys2Proof

namespace Sys2Proof.Machine

/-! ### The decoder inverts the encoder (R80, R81, R85) -/

/-- R85: a command's word decodes to the command. -/
theorem decode_encode (i : Instr) : decode (encode i) = .ok i := by
  cases i with
  | decChar c =>
    obtain ⟨hop, hrsv, harg⟩ := encode_fields (.decChar c)
    simp only [decode, hop, hrsv, harg]
    rfl
  | _ => rfl

/-- Settles O1: the decoder accepts only the words of commands, and inverts the encoder on them. -/
theorem decodeIffEncode : Obligations.DecodeIffEncode :=
  fun _ i => ⟨eq_encode_of_decode, fun h => h ▸ decode_encode i⟩

theorem encode_injective : Function.Injective encode :=
  fun i j h => Except.ok.inj ((decode_encode i).symm.trans ((congrArg decode h).trans (decode_encode j)))

/-- R85: the decoder refuses exactly the words of no command. -/
theorem decode_error_iff (w : Word) : (∃ e, decode w = .error e) ↔ ∀ i, w ≠ encode i := by
  constructor
  · rintro ⟨e, he⟩ i rfl
    rw [decode_encode] at he
    cases he
  · intro h
    cases hd : decode w with
    | ok i => exact absurd (eq_encode_of_decode hd) (h i)
    | error e => exact ⟨e, rfl⟩

/-! ### The rows of the opcode map (R81) -/

/-- R81: where the opcode map has a command's row. -/
def rowIndex : Instr → Fin opcodeRows.length
  | .nop => (0 : Fin 8)
  | .decClr => (1 : Fin 8)
  | .decChar _ => (2 : Fin 8)
  | .decEnd => (3 : Fin 8)
  | .ctrGen => (4 : Fin 8)
  | .digExt => (5 : Fin 8)
  | .generate => (6 : Fin 8)
  | .reset => (7 : Fin 8)

/-- R81: the row of a command. -/
def rowOf (i : Instr) : OpcodeRow := opcodeRows.get (rowIndex i)

theorem rowOf_mem (i : Instr) : rowOf i ∈ opcodeRows := List.get_mem _ _

theorem rowOf_mnemonic (i : Instr) : i.mnemonic = (rowOf i).mnemonic := by
  cases i <;> rfl

/-- Every row is some command's. -/
theorem exists_rowOf_eq {r : OpcodeRow} (h : r ∈ opcodeRows) : ∃ i, rowOf i = r := by
  simp only [opcodeRows, List.mem_cons, List.not_mem_nil, or_false] at h
  obtain rfl | rfl | rfl | rfl | rfl | rfl | rfl | rfl := h
  · exact ⟨.nop, rfl⟩
  · exact ⟨.decClr, rfl⟩
  · exact ⟨.decChar 0, rfl⟩
  · exact ⟨.decEnd, rfl⟩
  · exact ⟨.ctrGen, rfl⟩
  · exact ⟨.digExt, rfl⟩
  · exact ⟨.generate, rfl⟩
  · exact ⟨.reset, rfl⟩

/-- R81: a row with a full mask admits its own pattern only. -/
theorem eq_pattern_of_admits {r : OpcodeRow} {w : Word} (hm : r.mask = 0xFFFFFFFF) (h : r.admits w = true) :
    w = r.pattern := by
  have h := beq_iff_eq.1 h
  rwa [hm, show (0xFFFFFFFF : Word) = BitVec.allOnes 32 from rfl, BitVec.and_allOnes] at h

/-- R81: the mask of `DEC_CHAR` keeps the fields `OP` and `RSV`. -/
theorem decChar_mask_fields (w : Word) :
    opField (w &&& 0xFFFFFF00) = opField w ∧ rsvField (w &&& 0xFFFFFF00) = rsvField w := by
  constructor <;>
    (apply BitVec.eq_of_getLsbD_eq; intro i hi
     interval_cases i <;> simp)

/-- R81: the row of a command admits its word. -/
theorem rowOf_admits_encode (i : Instr) : (rowOf i).admits (encode i) = true := by
  apply beq_iff_eq.2
  cases i with
  | decChar c =>
    show (0x02#8 ++ 0#16 ++ c : Word) &&& 0xFFFFFF00 = 0x02000000
    apply BitVec.eq_of_getLsbD_eq; intro i hi
    rw [BitVec.getLsbD_and, cmdWord_getLsbD]
    interval_cases i <;> simp
  | _ => rfl

/-- R81: a row admits words of its own commands only. -/
theorem exists_encode_of_rowOf_admits {i : Instr} {w : Word} (h : (rowOf i).admits w = true) :
    ∃ j, rowOf j = rowOf i ∧ w = encode j := by
  cases i with
  | decChar c =>
    obtain ⟨hop, hrsv⟩ := decChar_mask_fields w
    rw [show w &&& 0xFFFFFF00 = 0x02000000 from beq_iff_eq.1 h] at hop hrsv
    obtain ⟨hop', hrsv', harg'⟩ := encode_fields (.decChar (argField w))
    exact ⟨.decChar (argField w), rfl,
      word_ext_fields (hop.symm.trans hop'.symm) (hrsv.symm.trans hrsv'.symm) harg'.symm⟩
  | _ => exact ⟨_, rfl, eq_pattern_of_admits rfl h⟩

/-- R81: what a row admits. -/
theorem admits_imp_exists_encode {r : OpcodeRow} {w : Word} (hr : r ∈ opcodeRows) (h : r.admits w = true) :
    ∃ i, rowOf i = r ∧ w = encode i := by
  obtain ⟨i, rfl⟩ := exists_rowOf_eq hr
  exact exists_encode_of_rowOf_admits h

/-- R83: the words no row admits are those of no command. -/
theorem no_row_admits_iff (w : Word) : (∀ r ∈ opcodeRows, r.admits w = false) ↔ ∀ i, w ≠ encode i := by
  constructor
  · rintro h i rfl
    exact Bool.false_ne_true ((h _ (rowOf_mem i)).symm.trans (rowOf_admits_encode i))
  · intro h r hr
    by_contra hne
    obtain ⟨i, -, hi⟩ := admits_imp_exists_encode hr (Bool.not_eq_false _ ▸ hne)
    exact h i hi

/-! ### Legal words (R83, R84) -/

/-- R83: the word of a command is legal. -/
theorem wordWf_encode (i : Instr) : wordWf (encode i) = true := by
  have wf {i : Instr} (h : Laws.Encoding.Statement i) : wordWf (encode i) = true := h.2.2.2
  cases i with
  | nop => exact wf Laws.Encoding.nop
  | decClr => exact wf Laws.Encoding.decClr
  | decChar c => exact wf (Laws.Encoding.decChar c)
  | decEnd => exact wf Laws.Encoding.decEnd
  | ctrGen => exact wf Laws.Encoding.ctrGen
  | digExt => exact wf Laws.Encoding.digExt
  | generate => exact wf Laws.Encoding.generate
  | reset => exact wf Laws.Encoding.reset

/-- R83: a word on which none of the three grounds holds. -/
theorem wordWf_iff (w : Word) : wordWf w = true ↔
    opField w ∈ [0x00#8, 0x01#8, 0x02#8, 0x03#8, 0x10#8, 0x20#8, 0x30#8, 0xFF#8] ∧ rsvField w = 0 ∧
      (argField w = 0 ∨ opField w = 0x02) := by
  simp only [wordWf, opWf, rsvWf, argWf, Bool.and_eq_true, Bool.or_eq_true, List.contains_iff_mem, beq_iff_eq]
  tauto

/-- R83: a legal word is a command's. -/
theorem exists_encode_of_wordWf {w : Word} (h : wordWf w = true) : ∃ i, w = encode i := by
  obtain ⟨hop, hrsv, harg⟩ := (wordWf_iff w).1 h
  have word_eq {i : Instr} (ho : opField w = i.op) (ha : argField w = i.arg) : ∃ i, w = encode i := by
    obtain ⟨ho', hr', ha'⟩ := encode_fields i
    exact ⟨i, word_ext_fields (ho.trans ho'.symm) (hrsv.trans hr'.symm) (ha.trans ha'.symm)⟩
  by_cases hchar : opField w = 0x02
  · exact word_eq (i := .decChar (argField w)) hchar rfl
  · have harg := harg.resolve_right hchar
    simp only [List.mem_cons, List.not_mem_nil, or_false] at hop
    obtain h | h | h | h | h | h | h | h := hop
    · exact word_eq (i := .nop) h harg
    · exact word_eq (i := .decClr) h harg
    · exact absurd h hchar
    · exact word_eq (i := .decEnd) h harg
    · exact word_eq (i := .ctrGen) h harg
    · exact word_eq (i := .digExt) h harg
    · exact word_eq (i := .generate) h harg
    · exact word_eq (i := .reset) h harg

/-- R83: no row admits a word exactly by one of the three grounds. -/
theorem no_row_admits_iff_grounds (w : Word) : (∀ r ∈ opcodeRows, r.admits w = false) ↔
    opField w ∉ [0x00#8, 0x01#8, 0x02#8, 0x03#8, 0x10#8, 0x20#8, 0x30#8, 0xFF#8] ∨ rsvField w ≠ 0 ∨
      (argField w ≠ 0 ∧ opField w ≠ 0x02) := by
  have legal : (∀ i, w ≠ encode i) ↔ ¬ wordWf w = true :=
    ⟨fun h hw => (exists_encode_of_wordWf hw).elim h, fun h i e => h (e ▸ wordWf_encode i)⟩
  rw [no_row_admits_iff, legal, wordWf_iff]
  tauto

/-- Settles O2: a row admits the words of its own commands, and a word is the word of at most one command. -/
theorem rowDecidesCommand : Obligations.RowDecidesCommand := by
  intro w
  refine ⟨fun r hr h => ?_, fun r hr r' hr' h h' => ?_, (no_row_admits_iff w).trans (decode_error_iff w).symm,
    no_row_admits_iff_grounds w⟩
  · obtain ⟨i, rfl, rfl⟩ := admits_imp_exists_encode hr h
    refine ⟨i, decode_encode i, rowOf_mnemonic i, ?_⟩
    rintro c rfl
    exact (encode_fields (.decChar c)).2.2.symm
  · obtain ⟨i, rfl, rfl⟩ := admits_imp_exists_encode hr h
    obtain ⟨j, rfl, hj⟩ := admits_imp_exists_encode hr' h'
    rw [encode_injective hj]

/-- Every command, once. -/
def allCommands : List Instr :=
  [.nop, .decClr, .decEnd, .ctrGen, .digExt, .generate, .reset] ++
    (List.finRange 256).map fun c => .decChar (BitVec.ofFin c)

theorem mem_allCommands (i : Instr) : i ∈ allCommands := by
  cases i with
  | decChar c => exact List.mem_append_right _ (List.mem_map.2 ⟨c.toFin, List.mem_finRange _, rfl⟩)
  | _ => exact List.mem_append_left _ (by decide)

theorem allCommands_nodup : allCommands.Nodup := by
  refine List.nodup_append.2 ⟨by decide, (List.nodup_finRange 256).map fun c d h => ?_, fun i hi j hj => ?_⟩
  · injection h with h
    exact congrArg BitVec.toFin h
  · obtain ⟨c, -, rfl⟩ := List.mem_map.1 hj
    rintro rfl
    simp at hi

theorem allCommands_length : allCommands.length = 263 := by
  simp [allCommands]

/-- Settles O3: the words of the 263 commands, which are distinct. -/
theorem legalWordCount : Obligations.LegalWordCount := by
  refine ⟨allCommands.map encode, by rw [List.length_map, allCommands_length],
    allCommands_nodup.map encode_injective, fun w => ⟨fun h => ?_, ?_⟩⟩
  · obtain ⟨i, -, rfl⟩ := List.mem_map.1 h
    exact ⟨i, decode_encode i⟩
  · rintro ⟨i, h⟩
    rw [eq_encode_of_decode h]
    exact List.mem_map_of_mem (mem_allCommands i)

/-- Settles O4, by evaluating the decoder on each word. -/
theorem specWordsDecode : Obligations.SpecWordsDecode :=
  ⟨rfl, rfl, rfl, rfl, rfl, rfl, rfl, rfl, rfl, rfl, rfl, rfl, rfl, rfl, rfl⟩

/-! ### Words written to `CMD` (R83, R187) -/

/-- R187: the block performs the command of its word. -/
theorem performCommand_encode (i : Instr) (s : State) : performCommand (encode i) s = exec i s := by
  rw [performCommand, decode_encode]

/-- R83: an illegal word records `ILLEGAL_CMD`. -/
theorem performCommand_illegal {w : Word} (h : ∀ i, w ≠ encode i) (s : State) :
    performCommand w s = .next (s.raiseError .illegalCmd 0) := by
  obtain ⟨e, he⟩ := (decode_error_iff w).2 h
  rw [performCommand, he]

/-- Settles O6: a word that no row admits is no command's, so the write records `ILLEGAL_CMD`. -/
theorem illegalWordOnlyRecords : Obligations.IllegalWordOnlyRecords := by
  refine fun w => ⟨no_row_admits_iff_grounds w, fun s s0 hw hb hm => ?_⟩
  obtain ⟨-, -, herr, hchar⟩ := statusWord_fields (s0.raiseError .illegalCmd 0)
  exact ⟨_, (step_command hm hb).trans (performCommand_illegal ((no_row_admits_iff w).1 hw) s0), rfl, herr, hchar⟩

end Sys2Proof.Machine
end

section
/-! PROOFS of the statements on the pseudo-instructions `wr.digest` and `wait.idle` (spec/30_encoding.md R87). -/

open Sys2Proof

namespace Sys2Proof.Machine

/-! ### `wr.digest` (R87) -/

/-- R182, R87: the digest buffer that holds a digest, its further bytes 0. -/
theorem byteAt_digestBuffer {g : List Byte} (hg : g.length ≤ 64) (i : Nat) :
    byteAt (bytesOf 64 fun i => g.getD i 0) i = g.getD i 0 := by
  rw [byteAt_bytesOf]
  split_ifs with hi
  · rfl
  · exact (List.getD_eq_default _ _ (by omega)).symm

/-- R87: word `k` of a digest is word `k` of the buffer that holds it. -/
theorem digestWord_eq_windowWord {g : List Byte} (hg : g.length ≤ 64) (k : Nat) :
    Asm.digestWord g k = windowWord (bytesOf 64 fun i => g.getD i 0) k := by
  simp only [Asm.digestWord, windowWord, byteAt_digestBuffer hg]

/-- R87: the digest buffer after the writes of the words `ks` of `g`, in order. -/
def storeDigestWords (g : List Byte) (v : Vector Byte 64) (ks : List Nat) : Vector Byte 64 :=
  ks.foldl (fun v k => windowSet v k (Asm.digestWord g k)) v

/-- R87: the words written hold bytes of the digest, and the others stay. -/
theorem byteAt_storeDigestWords {g : List Byte} (hg : g.length ≤ 64) {ks : List Nat} (hks : ∀ k ∈ ks, k < 16)
    (v : Vector Byte 64) (i : Nat) :
    byteAt (storeDigestWords g v ks) i = if i / 4 ∈ ks then g.getD i 0 else byteAt v i := by
  induction ks generalizing v with
  | nil => rfl
  | cons k ks ih =>
    have hk := hks k List.mem_cons_self
    rw [storeDigestWords, List.foldl_cons, ← storeDigestWords, ih fun j hj => hks j (List.mem_cons_of_mem k hj),
      byteAt_windowSet _ _ _ _ (by omega)]
    by_cases hi : i / 4 = k
    · subst hi
      have hword := windowWord_byte (bytesOf 64 fun i => g.getD i 0) i
      rw [← digestWord_eq_windowWord hg, byteAt_digestBuffer hg] at hword
      simp [hword]
    · simp [hi]

/-- R35, R65: a host write to a word of `DIGEST` while `BUSY` = 0. -/
theorem step_write_digest {s s0 : State} {k : Nat} {w : Word} (hk : k < 16)
    (hm : HostMoves s (Asm.wr (BitVec.ofNat 6 (0x30 + k)) w) s0) (hb : s.busy = false) :
    step s = .next { s0 with digest := windowSet s0.digest k w } := by
  have hr := (ofIdx_key_digest_word k hk).2
  have hi : BitVec.ofNat 6 (0x30 + k) ≠ 0 := fun e => nomatch hr.symm.trans ((reg_cmd_iff _).2 e)
  rw [step_store hm hb hi, hr]
  rfl

/-- R87: the run of the writes of the words `ks` of a digest. -/
theorem runsTo_digestWords (g : List Byte) {ks : List Nat} (hks : ∀ k ∈ ks, k < 16) {s : State}
    (hb : s.busy = false) (ht : s.turns = [])
    (hh : s.host = ks.map fun k => Asm.wr (BitVec.ofNat 6 (0x30 + k)) (Asm.digestWord g k)) :
    RunsTo ks.length s { s with host := [], digest := storeDigestWords g s.digest ks } := by
  induction ks generalizing s with
  | nil => exact runsTo_zero.2 (by rw [← show s.host = [] from hh]; rfl)
  | cons k ks ih =>
    have hstep := step_write_digest (hks k List.mem_cons_self) ⟨_, hh, .inl ⟨ht, rfl⟩⟩ hb
    exact (runsTo_succ hstep).2 (ih (fun j hj => hks j (List.mem_cons_of_mem k hj)) hb ht rfl)

/-- R34: `DIGEST_LEN` holds a length of at most 64. -/
theorem digestLen_of_word {n : Nat} (h : n ≤ 64) : ((BitVec.ofNat 32 n).extractLsb' 0 8).toNat = n := by
  simp only [BitVec.extractLsb'_toNat, BitVec.toNat_ofNat, Nat.shiftRight_zero]
  omega

/-- Settles O59: the write of `DIGEST_LEN`, then the writes of the words, which cover every byte of the digest. -/
theorem wrDigestStoresDigest : Obligations.WrDigestStoresDigest := by
  intro s g hg hb ht hh
  have hks : ∀ k ∈ List.range ((g.length + 3) / 4), k < 16 := fun k hk => by
    have := List.mem_range.1 hk; omega
  have hlen := step_store ⟨_, hh, .inl ⟨ht, rfl⟩⟩ hb (by decide)
  have hwords := runsTo_digestWords g hks (s := { s with
    host := _, digestLen := (BitVec.ofNat 32 g.length).extractLsb' 0 8 }) hb ht rfl
  rw [List.length_range] at hwords
  refine ⟨_, (Nat.add_comm 1 _) ▸ (runsTo_succ hlen).2 hwords, rfl, digestLen_of_word hg, fun i hi => ?_, rfl⟩
  have hi : i / 4 ∈ List.range ((g.length + 3) / 4) := List.mem_range.2 (by omega)
  exact (byteAt_storeDigestWords hg hks s.digest i).trans (if_pos hi)

/-! ### `wait.idle` (R87, log 16) -/

/-- R24: bit 0 of `STATUS`, as `wait.idle` reads it. -/
theorem memRead_status_busy (s : State) : (s.memRead statusIdx).getLsbD 0 = s.busy := (statusWord_fields s).1

/-- R87: a poll while `BUSY` = 1, which leaves `wait.idle` the host's next access. -/
theorem step_poll_busy {s : State} {rest : List HostAccess} {ts : List Turn} (hb : s.busy = true)
    (hh : s.host = .waitIdle :: rest) (ht : s.turns = .host :: ts) :
    step s = .next { s with turns := ts, hostRead := some (s.memRead statusIdx) } := by
  have hbit := (memRead_status_busy s).trans hb
  simp only [step, nextTurn, ht, takeTurn, hostStep, hh]
  exact if_pos hbit

/-- R87: the poll that reads `BUSY` = 0 ends `wait.idle`. -/
theorem step_poll_idle {s s0 : State} (hb : s.busy = false) (hm : HostMoves s .waitIdle s0) :
    step s = .next { s0 with hostRead := some (s.memRead statusIdx) } := by
  have hbit : ¬ (s.memRead statusIdx).getLsbD 0 = true := by rw [memRead_status_busy, hb]; decide
  obtain ⟨hs, hh, ⟨ht, rfl⟩ | ⟨ts, ht, rfl⟩⟩ := hm <;>
    (simp only [step, nextTurn, ht, takeTurn, hostStep, hh]
     exact if_neg hbit)

/-- R87, R188: `n` polls while `BUSY` = 1 change what the host read last, and nothing else. -/
theorem runsTo_polls {s : State} {n : Nat} {rest : List HostAccess} {ts : List Turn} (hb : s.busy = true)
    (hh : s.host = .waitIdle :: rest) (ht : s.turns = List.replicate n .host ++ ts) :
    ∃ r, RunsTo n s { s with turns := ts, hostRead := r } := by
  induction n generalizing s with
  | zero => exact ⟨s.hostRead, runsTo_zero.2 (by rw [← show s.turns = ts from ht])⟩
  | succ n ih =>
    have hstep := step_poll_busy hb hh ht
    obtain ⟨r, hr⟩ := ih (s := { s with turns := _, hostRead := some (s.memRead statusIdx) }) hb hh rfl
    exact ⟨r, (runsTo_succ hstep).2 hr⟩

/-! ### The code of an `OK` answer (R161, R182) -/

/-- R161: the truncation of a digest in the digest buffer is the source's. -/
theorem truncValue_digestBuffer {g : List Byte} (hg : g.length ≤ 64) :
    (truncValue (bytesOf 64 fun i => g.getD i 0) g.length).toNat = Reference.truncate g := by
  simp only [truncValue_toNat, be32_toNat, truncOffset_toNat, byteAt_digestBuffer hg]
  rfl

/-- R162: the characters of a rendering of at most 12 digits are the source's. -/
theorem byteAt_asciiOf_eq_dec (n : Nat) {d : Nat} (hd : d ≤ 12) (j : Nat) :
    byteAt (asciiOf n d) j = (Reference.dec n d).getD j 0 := by
  rw [byteAt_asciiOf, Reference.dec]
  by_cases hj : j < d
  · simp [hj, show j < 12 by omega, decDigit]
  · simp [hj]

/-- R161, R182: the code registers after an `OK` answer of a legal length. -/
theorem hashAnswerOk_code {g : List Byte} {s : State} (hd : s.digitsLegal = true) (hlo : 20 ≤ g.length)
    (hhi : g.length ≤ 64) :
    (hashAnswerOk g s).code.toNat = Reference.truncate g % 10 ^ s.ctrl.digits.toNat ∧
    ∀ j, byteAt (hashAnswerOk g s).ascii j = (Reference.codeString g s.ctrl.digits.toNat).getD j 0 := by
  obtain ⟨-, hd10⟩ := (digitsLegal_iff s).1 hd
  have htrunc := truncValue_digestBuffer hhi
  rw [hashAnswerOk_legal s ((digestLenLegal_iff _).2 ⟨hlo, hhi⟩)]
  refine ⟨(code_extract_toNat (s.loadDigest g) g.length _).trans (htrunc ▸ rfl), fun j => ?_⟩
  rw [Reference.codeString, ← htrunc]
  exact byteAt_asciiOf_eq_dec _ (by omega) j

/-- R182: what an `OK` answer of a legal length sets, and what it keeps. -/
theorem hashAnswerOk_legal_fields {g : List Byte} (s : State) (h : digestLenLegal g.length = true) :
    (hashAnswerOk g s).busy = false ∧ (hashAnswerOk g s).err = .ok ∧ (hashAnswerOk g s).codeValid = true ∧
    (hashAnswerOk g s).remain = s.remain ∧ (hashAnswerOk g s).ctr = s.ctr ∧ SameAgents s (hashAnswerOk g s) := by
  rw [hashAnswerOk_legal s h]
  exact ⟨rfl, rfl, rfl, rfl, rfl, rfl, rfl, rfl, rfl⟩

/-- R182, R24: after an `OK` answer of a legal length `STATUS` reads `CODE_VALID` and nothing else. -/
theorem hashAnswerOk_status {g : List Byte} (s : State) (h : digestLenLegal g.length = true) :
    (hashAnswerOk g s).memRead statusIdx = 0x00000002 := by
  rw [hashAnswerOk_legal s h]
  show (0#8 ++ 0#8 ++ 0x00#8 ++ 0#5 ++ BitVec.ofBool false ++ BitVec.ofBool true ++ BitVec.ofBool false : Word) = _
  rfl

/-- R182: the turn of an `OK` answer to an outstanding request. -/
theorem step_hashOk {s s0 : State} {q : HashRequest} (hq : s.hreq = some q) (hm : AgentMoves s .hashOk s0) :
    step s = .next (hashAnswerOk (s.hmac q) s0) := by
  rw [step_agent hm]
  obtain ⟨ts, rfl⟩ := hm.eq_with
  simp only [takeTurn, hashStep, hq]
  rfl

/-! ### `generate`, then `wait.idle` (R87, R180, R182) -/

/-- R180: the state that `GENERATE` leaves where it issues the request. -/
def State.generated (s : State) : State := s.clearCode.clearCounter.counterCompute.issueRequest.recordOk

/-- R187, R180: the host's turn on `generate` while every check of phase 1 holds. -/
theorem step_generate {s s0 : State} (hm : HostMoves s (Asm.cmd .generate) s0) (hb : s.busy = false)
    (hd : s0.dec.dstate = .done) (hs : s0.stepSeconds ≠ 0) (hl : s0.digitsLegal = true) (hk : s0.keyLen ≠ 0) :
    step s = .next s0.generated :=
  (step_command hm hb).trans ((performCommand_encode _ _).trans (exec_generate_issue hd hs hl hk))

/-- R180: the counter of `GENERATE` is the quotient. -/
theorem generated_ctr {s : State} {c : DWord} (hc : c.toNat = s.time.toNat / s.stepSeconds.toNat) :
    s.generated.ctr = c :=
  BitVec.eq_of_toNat_eq ((ctr_counterCompute_toNat s.clearCode.clearCounter).trans hc.symm)

/-- R180: the request of `GENERATE`. -/
theorem generated_hreq {s : State} {c : DWord} (hc : c.toNat = s.time.toNat / s.stepSeconds.toNat) :
    s.generated.hreq = some { alg := s.ctrl.alg, key := s.keyBytes, msg := be8 c } := by
  rw [← generated_ctr hc]
  rfl

/-- R87, R182: any number of polls, the `OK` answer of a legal length, and the poll that sees it. -/
theorem runsTo_waitIdle_ok {s : State} {q : HashRequest} {n : Nat} {rest : List HostAccess} (hb : s.busy = true)
    (hq : s.hreq = some q) (hg : digestLenLegal (s.hmac q).length = true) (hh : s.host = .waitIdle :: rest)
    (ht : s.turns = List.replicate n .host ++ [.hashOk]) :
    ∃ r, RunsTo (n + 2) s
      { hashAnswerOk (s.hmac q) { s with turns := [], hostRead := r } with
        host := rest, hostRead := some 0x00000002 } := by
  obtain ⟨r, hpolls⟩ := runsTo_polls hb hh ht
  refine ⟨r, hpolls.trans ?_⟩
  have hanswer := step_hashOk (s := { s with turns := [.hashOk], hostRead := r }) hq ⟨_, rfl, rfl⟩
  obtain ⟨hb', -, -, -, -, hhost, hturns, -⟩ :=
    hashAnswerOk_legal_fields { s with turns := [], hostRead := r } hg
  have hlast := step_poll_idle hb' ⟨_, hhost.trans hh, .inl ⟨hturns, rfl⟩⟩
  rw [hashAnswerOk_status _ hg] at hlast
  exact (runsTo_succ hanswer).2 ((runsTo_succ hlast).2 (runsTo_zero.2 rfl))

/-- Settles O50: `GENERATE` issues the request of the time's counter, and the answer's code is the source's. -/
theorem generateComputesCode : Obligations.GenerateComputesCode := by
  intro s n rest c hb hd hs hl hk hc hh ht g d hlo hhi
  let s0 : State := { s with host := .waitIdle :: rest, turns := List.replicate n .host ++ [.hashOk] }
  have hlegal := (digestLenLegal_iff _).2 ⟨hlo, hhi⟩
  have hfirst : step s = .next s0.generated := step_generate ⟨_, hh, .inr ⟨_, ht, rfl⟩⟩ hb hd hs hl hk
  obtain ⟨r, hwait⟩ := runsTo_waitIdle_ok (s := s0.generated) rfl (generated_hreq hc) hlegal rfl rfl
  let s1 : State := { s0.generated with turns := [], hostRead := r }
  obtain ⟨hbusy, herr, hcv, hremain, hctr, -⟩ := hashAnswerOk_legal_fields s1 hlegal
  obtain ⟨hreq, -, hkey⟩ := hashAnswerOk_frame g s1
  obtain ⟨hcode, hascii⟩ := hashAnswerOk_code (s := s1) hl hlo hhi
  refine ⟨_, (runsTo_succ hfirst).2 hwait, rfl, hbusy, herr, hcv, hreq, hcode, hascii, ?_, ?_, hkey, rfl⟩
  · exact (congrArg BitVec.toNat hremain).trans (remain_counterCompute_toNat s0.clearCode.clearCounter hs)
  · exact hctr.trans (generated_ctr (s := s0) hc)

end Sys2Proof.Machine
end

section
/-! PROOFS of the statements on the decoder (spec/40_decoder.md). -/

open Sys2Proof

namespace Sys2Proof.Machine

/-! ### Character classes (R100 to R102) -/

/-- R100: the two ranges of `InAlphabet` are the 32 characters. -/
theorem inAlphabet_iff_mem : ∀ u : Byte, inAlphabet u = true ↔ u ∈ Config.kp2fa.alphabet := by decide

/-- R100: `Value` of each character is its place. -/
theorem alphabetValue_getElem : ∀ v : Fin Config.kp2fa.alphabet.length,
    (alphabetValue Config.kp2fa.alphabet[v]).toNat = v := by decide

/-- R100: `Value` is the index into the alphabet. -/
theorem alphabetValue_of_getElem? {u : Byte} {v : Nat} (h : Config.kp2fa.alphabet[v]? = some u) :
    (alphabetValue u).toNat = v := by
  obtain ⟨hv, rfl⟩ := List.getElem?_eq_some_iff.1 h
  exact alphabetValue_getElem ⟨v, hv⟩

theorem inAlphabet_of_getElem? {u : Byte} {v : Nat} (h : Config.kp2fa.alphabet[v]? = some u) :
    inAlphabet u = true := (inAlphabet_iff_mem u).2 (List.mem_of_getElem? h)

/-- R102: `Upper` folds `a`..`z`. -/
theorem upper_of_lower {c : Byte} (h : 0x61 ≤ c.toNat ∧ c.toNat ≤ 0x7A) : (upper c).toNat = c.toNat - 0x20 := by
  have hfold : upper c = c - 0x20 := if_pos h
  rw [hfold]
  exact BitVec.toNat_sub_of_le (show 0x20 ≤ c.toNat by omega)

/-- R102: `Upper` leaves every other byte. -/
theorem upper_of_not_lower {c : Byte} (h : c.toNat < 0x61 ∨ 0x7A < c.toNat) : upper c = c :=
  if_neg fun ⟨hlo, hhi⟩ => by
    have hlo : 0x61 ≤ c.toNat := hlo
    have hhi : c.toNat ≤ 0x7A := hhi
    omega

/-- Settles O21: class by class. -/
theorem characterClasses : Obligations.CharacterClasses :=
  fun u => ⟨inAlphabet_iff_mem u, fun _ => alphabetValue_of_getElem?, List.contains_iff_mem, upper_of_lower,
    upper_of_not_lower⟩

/-- R106: an alphabet character is neither whitespace nor `=`, so the checks before its own pass. -/
theorem not_isWS_and_ne_padChar : ∀ c : Byte, inAlphabet (upper c) = true → isWS c = false ∧ c ≠ padChar := by
  decide

/-! ### `DEC_CLR` and `DEC_END` (R105, R107) -/

theorem status_keyValid_eq_false {s : State} (h : s.dec.dstate ≠ .done) : (s.memRead 0x01).getLsbD 2 = false :=
  Bool.eq_false_iff.2 (mt (status_keyValid_iff s).1 h)

/-- Settles O22: `DEC_CLR` is `DecClear`, then `ok`. -/
theorem decClrEmptiesDecoder : Obligations.DecClrEmptiesDecoder :=
  ⟨rfl, fun s => ⟨s.decClear.recordOk, rfl, keyGone_of_cleared rfl rfl rfl,
    status_keyValid_eq_false (s := s.decClear.recordOk) nofun, rfl⟩⟩

/-- R107: no byte was decoded, and `EMPTY_ERR` is set. -/
theorem decEndOpen_empty {s : State} (hk : s.keyLen = 0) (he : s.ctrl.emptyErr = true) :
    decEndOpen s = s.decFail .decEmpty 0 := if_pos ⟨hk, he⟩

/-- R107: a complete key. -/
theorem decEndOpen_done {s : State} (h : ¬ (s.keyLen = 0 ∧ s.ctrl.emptyErr = true)) :
    decEndOpen s = { s with dec := s.dec.finished }.recordOk := if_neg h

/-- Settles O24, by the equation of each case. -/
theorem decEndByCase : Obligations.DecEndByCase := by
  refine ⟨rfl, fun s => ⟨exec_decEnd_done, exec_decEnd_error, fun ho hk he => ?_, fun ho h => ?_⟩⟩
  · rw [exec_decEnd_open ho, decEndOpen_empty hk he]; rfl
  · have hne : ¬ (s.keyLen = 0 ∧ s.ctrl.emptyErr = true) := fun ⟨hk, he⟩ =>
      h.elim (absurd hk) fun hf => Bool.false_ne_true (hf.symm.trans he)
    exact ⟨_, (exec_decEnd_open ho).trans (congrArg _ (decEndOpen_done hne)), (status_keyValid_iff _).2 rfl, rfl⟩

/-! ### `DEC_CHAR` (R106) -/

theorem decCharOpen_ws {c : Byte} (s : State) (hw : isWS c = true) : decCharOpen c s = s.recordOk := if_pos hw

theorem decCharOpen_pad (s : State) :
    decCharOpen padChar s = { s with dec := { s.dec with peq := true } }.recordOk := rfl

/-- R106: text after a pending `=`. -/
theorem decCharOpen_afterPad {c : Byte} {s : State} (hw : isWS c = false) (hc : c ≠ padChar)
    (hp : s.dec.peq = true) : decCharOpen c s = s.decFail .decBadchar padChar := by
  simp [decCharOpen, hw, hc, hp]

/-- R106: a character outside the alphabet. -/
theorem decCharOpen_badchar {c : Byte} {s : State} (hw : isWS c = false) (hc : c ≠ padChar)
    (hp : s.dec.peq = false) (ha : inAlphabet (upper c) = false) :
    decCharOpen c s = s.decFail .decBadchar c := by
  simp [decCharOpen, hw, hc, hp, ha]

/-- R106: an alphabet character. -/
theorem decCharOpen_feed {c : Byte} {s : State} (hp : s.dec.peq = false) (ha : inAlphabet (upper c) = true) :
    decCharOpen c s = decFeed (upper c) c s := by
  obtain ⟨hw, hc⟩ := not_isWS_and_ne_padChar c ha
  simp [decCharOpen, hw, hc, hp, ha]

/-- R106: the character would complete byte number 65. -/
theorem decFeed_overflow {u c : Byte} {s : State} (hn : 3 ≤ s.dec.nbits.toNat) (hk : s.keyLen.toNat = 64) :
    decFeed u c s = s.decFail .decOverflow c := if_pos ⟨by omega, hk⟩

/-- R106: the character fits. -/
theorem decFeed_pack {u c : Byte} {s : State} (h : s.dec.nbits.toNat < 3 ∨ s.keyLen.toNat ≠ 64) :
    decFeed u c s = (s.packValue (alphabetValue u)).recordOk :=
  if_neg fun ⟨hn, hk⟩ => h.elim (fun h => by omega) (absurd hk)

/-- R104: `(acc << 5) | v` is `acc * 32 + v`, since `v` has 5 bits. -/
theorem shiftLeft_or_eq_ofNat {w : Nat} (acc : Byte) {v : Nat} (hv : v < 32) :
    (acc.setWidth w <<< 5) ||| BitVec.ofNat w v = BitVec.ofNat w (acc.toNat * 32 + v) := by
  have hor : acc.toNat * 32 + v = acc.toNat <<< 5 ||| v := by
    rw [← Nat.shiftLeft_add_eq_or_of_lt hv, Nat.shiftLeft_eq]
  apply BitVec.eq_of_getLsbD_eq; intro i hi
  rw [hor]
  simp only [BitVec.getLsbD_or, BitVec.getLsbD_shiftLeft, BitVec.getLsbD_setWidth, BitVec.getLsbD_ofNat,
    Nat.testBit_or, Nat.testBit_shiftLeft, hi, show i - 5 < w by omega, BitVec.testBit_toNat]
  by_cases h5 : i < 5 <;> simp [h5, Nat.not_le.2, Nat.not_lt.1]

/-- R104: the pending bits and the count of `Pack` where no byte completes, on the bits. -/
theorem pack_few_bits (acc : Byte) (nbits : BitVec 3) {v : Nat} (hv : v < 32) :
    BitVec.ofNat 8 (acc.toNat * 32 + v) = (acc <<< 5) ||| BitVec.ofNat 8 v ∧
    BitVec.ofNat 3 (nbits.toNat + 5) = nbits + 5 := by
  constructor
  · rw [← shiftLeft_or_eq_ofNat acc hv, BitVec.setWidth_eq]
  · rw [BitVec.ofNat_add, BitVec.ofNat_toNat, BitVec.setWidth_eq]
    rfl

/-- R104: the pending bits and the byte of `Pack` where a byte completes, on the bits. -/
theorem pack_many_bits (acc : Byte) {n v : Nat} (hn : n ≤ 4) (hv : v < 32) :
    let a : BitVec 16 := (acc.setWidth 16 <<< 5) ||| BitVec.ofNat 16 v
    BitVec.ofNat 8 ((acc.toNat * 32 + v) % 2 ^ n) = (a &&& ((1#16 <<< n) - 1)).setWidth 8 ∧
    BitVec.ofNat 8 ((acc.toNat * 32 + v) >>> n) = (a >>> n).setWidth 8 := by
  intro a
  have ha : a.toNat = acc.toNat * 32 + v := by
    have := acc.isLt
    rw [show a = _ from shiftLeft_or_eq_ofNat acc hv, BitVec.toNat_ofNat]; omega
  have hmask : ((1#16 <<< n) - 1).toNat = 2 ^ n - 1 := by interval_cases n <;> rfl
  constructor <;> apply BitVec.eq_of_toNat_eq
  · rw [BitVec.toNat_setWidth, BitVec.toNat_and, ha, hmask, Nat.and_two_pow_sub_one_eq_mod, BitVec.toNat_ofNat]
  · rw [BitVec.toNat_setWidth, BitVec.toNat_ushiftRight, ha, BitVec.toNat_ofNat]

/-- Settles O23: each case is one check of `decCharOpen`, and `Pack` is two equations on the bits. -/
theorem decCharByCase : Obligations.DecCharByCase := by
  refine fun s c => ⟨?_, exec_decChar_done c, exec_decChar_error c, fun ho => ?_⟩
  · show (0x02#8 ++ 0#16 ++ c : Word) = _
    apply BitVec.eq_of_getLsbD_eq; intro i hi
    rw [cmdWord_getLsbD, BitVec.getLsbD_or, BitVec.getLsbD_setWidth]
    interval_cases i <;> simp
  rw [exec_decChar_open c ho]
  refine ⟨fun hw => ?_, ?_, fun hw hc hp => ?_, fun hw hc hp ha => ?_, fun v hp hv => ?_⟩
  · rw [decCharOpen_ws s hw]; rfl
  · rintro rfl; rfl
  · rw [decCharOpen_afterPad hw hc hp]; rfl
  · rw [decCharOpen_badchar hw hc hp (by rw [← Bool.not_eq_true, inAlphabet_iff_mem]; exact ha)]; rfl
  · have hval := alphabetValue_of_getElem? hv
    have hlt : v < 32 := hval ▸ (alphabetValue (upper c)).isLt
    have hnb := s.dec.nbits.isLt
    rw [decCharOpen_feed hp (inAlphabet_of_getElem? hv)]
    refine ⟨fun hn hk => ?_, fun hn => ?_, fun hn hk => ?_⟩
    · rw [decFeed_overflow hn hk]; rfl
    · obtain ⟨hacc, hbits⟩ := pack_few_bits s.dec.acc s.dec.nbits hlt
      rw [decFeed_pack (.inl hn), packValue_few _ hn, hval, hacc, hbits]; rfl
    · obtain ⟨hacc, hbyte⟩ := pack_many_bits s.dec.acc (n := s.dec.nbits.toNat - 3) (by omega) hlt
      rw [decFeed_pack (.inr (by omega)), packValue_many _ hn, hval, hacc, hbyte]; rfl

/-- Settles O56: whitespace and `=` leave the key, and a completed byte goes to `KEY[KEY_LEN]`. -/
theorem acceptedCharacterKeepsKey : Obligations.AcceptedCharacterKeepsKey := by
  intro s t c hB ho e herr
  cases exec_cases e with
  | decNotOpen _ _ hd | decSticky _ _ hd => exact nomatch ho.symm.trans hd
  | decFailed _ _ code ch _ hc => exact absurd herr hc
  | decSkip | decPad => exact ⟨fun _ _ => rfl, .inl rfl, ho⟩
  | decPack _ _ hp ha hk =>
    rcases Nat.lt_or_ge s.dec.nbits.toNat 3 with hn | hn
    · rw [packValue_few _ hn]; exact ⟨fun _ _ => rfl, .inl rfl, ho⟩
    · have hlen := hB.b_len
      rw [packValue_many _ hn]
      refine ⟨fun i hi => (byteAt_set ..).trans (if_neg fun h => hi h.1.symm), .inr (keyLen_succ (by omega)), ho⟩

/-! ### The registers a command may change -/

/-- The registers that decoding may change: the result and `KEY_VALID` in `STATUS`, the decoder and the key. -/
def Reg.ofDecoder : Reg → Bool
  | .status | .decStatus | .keyLen | .key _ => true
  | _ => false

/-- The registers that a cleared or new code changes: the result and `CODE_VALID` in `STATUS`, and the code. -/
def Reg.ofCode : Reg → Bool
  | .status | .offset | .trunc | .code | .codeAscii _ => true
  | _ => false

/-- The counter's registers. -/
def Reg.ofCounter : Reg → Bool
  | .ctrHi | .ctrLo | .remain => true
  | _ => false

/-- R105 to R107, R140, R160, R180, R185: the registers a command may change, `RESET` aside. -/
def mayChange : Instr → Reg → Bool
  | .nop, _ => false
  | .decClr, r | .decChar _, r | .decEnd, r => r.ofDecoder
  | .ctrGen, r => r.ofCode || r.ofCounter
  | .digExt, r => r.ofCode
  | .generate, r => r.ofCode || r.ofCounter || r.ofDecoder
  | .reset, _ => true

/-- A command leaves every register it may not change. -/
theorem exec_keeps_reg {i : Instr} {s t : State} (e : exec i s = .next t) {r : Reg} (hr : mayChange i r = false) :
    t.readReg r = s.readReg r := by
  cases exec_cases e with
  | reset => cases hr
  | decPack c =>
    obtain ⟨acc, nbits, key, len, e⟩ := packValue_frame s (alphabetValue (upper c))
    rw [e]; cases r <;> cases hr <;> rfl
  | decNotOpen _ hi | decSticky _ hi | decFailed _ hi =>
    obtain rfl | ⟨c, rfl⟩ := hi <;> cases r <;> cases hr <;> rfl
  | _ => cases r <;> cases hr <;> rfl

/-- A command leaves what the agents hold. -/
theorem exec_sameAgents {i : Instr} {s t : State} (e : exec i s = .next t) : SameAgents s t := by
  cases exec_cases e with
  | decPack c =>
    obtain ⟨acc, nbits, key, len, e⟩ := packValue_frame s (alphabetValue (upper c))
    rw [e]; exact ⟨rfl, rfl, rfl, rfl⟩
  | _ => exact ⟨rfl, rfl, rfl, rfl⟩

/-- Only `GENERATE` issues a request, and only `RESET` drops one. -/
theorem exec_keeps_request {i : Instr} {s t : State} (e : exec i s = .next t) (hg : i ≠ .generate)
    (hi : i ≠ .reset) : t.hreq = s.hreq ∧ t.busy = s.busy := by
  cases exec_cases e with
  | generateNoKey | generateBad | generateIssue => exact absurd rfl hg
  | reset => exact absurd rfl hi
  | decPack c =>
    obtain ⟨acc, nbits, key, len, e⟩ := packValue_frame s (alphabetValue (upper c))
    rw [e]; exact ⟨rfl, rfl⟩
  | _ => exact ⟨rfl, rfl⟩

/-- R21: the indices outside the decoder's registers. -/
theorem ofDecoder_ofIdx_eq_false : ∀ idx : RegIdx, idx.toNat ∉ [0x01, 0x06, 0x07] ++ List.range' 0x20 16 →
    (Reg.ofIdx idx).ofDecoder = false := by decide

/-- R21: the indices outside the code's registers. -/
theorem ofCode_ofIdx_eq_false : ∀ idx : RegIdx, idx.toNat ∉ [0x01, 0x0C, 0x0D, 0x0E, 0x0F, 0x10, 0x11] →
    (Reg.ofIdx idx).ofCode = false := by decide

/-- R21: the indices outside the code's and the counter's registers. -/
theorem ofCode_or_ofCounter_ofIdx_eq_false : ∀ idx : RegIdx,
    idx.toNat ∉ [0x01, 0x08, 0x09, 0x0A, 0x0C, 0x0D, 0x0E, 0x0F, 0x10, 0x11] →
    ((Reg.ofIdx idx).ofCode || (Reg.ofIdx idx).ofCounter) = false := by decide

/-- R21: the indices outside the registers of all three. -/
theorem ofCode_or_ofCounter_or_ofDecoder_ofIdx_eq_false : ∀ idx : RegIdx, idx.toNat ∉
      [0x01, 0x06, 0x07, 0x08, 0x09, 0x0A, 0x0C, 0x0D, 0x0E, 0x0F, 0x10, 0x11] ++ List.range' 0x20 16 →
    ((Reg.ofIdx idx).ofCode || (Reg.ofIdx idx).ofCounter || (Reg.ofIdx idx).ofDecoder) = false := by decide

/-- Settles O55: the indices outside a command's list are those of registers it may not change. -/
theorem commandFrames : Obligations.CommandFrames := by
  intro i s t e hi changes
  refine ⟨fun idx hidx => exec_keeps_reg e ?_, exec_sameAgents e, fun hg => exec_keeps_request e hg hi⟩
  cases i with
  | nop => rfl
  | decClr | decChar | decEnd => exact ofDecoder_ofIdx_eq_false idx hidx
  | digExt => exact ofCode_ofIdx_eq_false idx hidx
  | ctrGen => exact ofCode_or_ofCounter_ofIdx_eq_false idx hidx
  | generate => exact ofCode_or_ofCounter_or_ofDecoder_ofIdx_eq_false idx hidx
  | reset => exact absurd rfl hi

end Sys2Proof.Machine
end

section
/-! PROOFS of the statements on whole texts fed to the decoder (spec/40_decoder.md R103 to R112). -/

open Sys2Proof

namespace Sys2Proof.Machine

open Reference

/-! ### The reference's bit groups, one character longer (R103) -/

theorem bitsOf_concat (t : List Byte) (c : Byte) :
    bitsOf (t ++ [c]) = bitsOf t * 32 + (alphabetValue (upper c)).toNat := by
  rw [bitsOf, List.foldl_append]; rfl

theorem groups_length (t : List Byte) : (groups t).length = 5 * t.length / 8 := by simp [groups]

/-- R103: a whole group stays where it is when 5 bits follow. -/
theorem shiftRight_push {v : Nat} (hv : v < 32) (bits x : Nat) : (bits * 32 + v) >>> (x + 5) = bits >>> x := by
  have h : (bits * 32 + v) / 32 = bits := by omega
  rw [Nat.shiftRight_eq_div_pow, Nat.shiftRight_eq_div_pow, add_comm x, pow_add, ← Nat.div_div_eq_div_mul,
    show 2 ^ 5 = 32 from rfl, h]

/-- R104: the pending bits when 5 bits follow. -/
theorem mod_two_pow_push {v : Nat} (hv : v < 32) (bits n : Nat) :
    bits % 2 ^ n * 32 + v = (bits * 32 + v) % 2 ^ (n + 5) := by
  have h : (bits * 32 + v) / 32 = bits := by omega
  rw [pow_add, mul_comm (2 ^ n), show 2 ^ 5 = 32 from rfl, Nat.mod_mul, h]
  omega

/-- R103: the groups of `t` are the first groups of the longer text. -/
theorem groups_concat_initial (t : List Byte) (c : Byte) :
    (List.range (5 * t.length / 8)).map
      (fun k => BitVec.ofNat 8 (bitsOf (t ++ [c]) >>> (5 * (t.length + 1) - 8 - 8 * k))) = groups t := by
  refine List.map_congr_left fun k hk => ?_
  have hk := List.mem_range.1 hk
  rw [bitsOf_concat, show 5 * (t.length + 1) - 8 - 8 * k = 5 * t.length - 8 - 8 * k + 5 by omega,
    shiftRight_push (alphabetValue _).isLt]

/-- R104: below three pending bits no group completes. -/
theorem groups_concat_few {t : List Byte} (c : Byte) (h : 5 * t.length % 8 < 3) : groups (t ++ [c]) = groups t := by
  rw [← groups_concat_initial t c, groups, List.length_append, List.length_singleton,
    show 5 * (t.length + 1) / 8 = 5 * t.length / 8 by omega]

/-- R104: from three pending bits on, one group completes. -/
theorem groups_concat_many {t : List Byte} (c : Byte) (h : 3 ≤ 5 * t.length % 8) :
    groups (t ++ [c]) = groups t ++ [BitVec.ofNat 8 (bitsOf (t ++ [c]) >>> (5 * t.length % 8 - 3))] := by
  rw [← groups_concat_initial t c, groups, List.length_append, List.length_singleton,
    show 5 * (t.length + 1) / 8 = 5 * t.length / 8 + 1 by omega, List.range_succ, List.map_append,
    List.map_singleton, show 5 * (t.length + 1) - 8 - 8 * (5 * t.length / 8) = 5 * t.length % 8 - 3 by omega]

/-! ### The decoder's state as a function of the text (R104) -/

/-- R106: the key buffer that holds `key`, its further bytes 0. -/
def keyBuffer (key : List Byte) : Vector Byte 64 := bytesOf 64 fun i => key.getD i 0

/-- `KEY` and `KEY_LEN` hold `key`. -/
def State.withKey (s : State) (key : List Byte) : State :=
  { s with keyLen := BitVec.ofNat 7 key.length, key := keyBuffer key }

/-- R104: the OPEN decoder after the alphabet characters `t`, with `=` pending or not. -/
def Decoder.pending (t : List Byte) (peq : Bool) : Decoder :=
  { Decoder.cleared with peq := peq, nbits := BitVec.ofNat 3 (5 * t.length % 8),
                         acc := BitVec.ofNat 8 (bitsOf t % 2 ^ (5 * t.length % 8)) }

/-- R104: the state after the alphabet characters `t`: the whole groups in `KEY`, the rest pending. -/
def State.holding (s : State) (t : List Byte) (peq : Bool) : State :=
  { s.withKey (groups t) with dec := Decoder.pending t peq }

/-- R111: the state that a decode with the given result leaves. -/
def State.decoded (s : State) : DecodeResult → State
  | .bytes key => { s.withKey key with dec := { Decoder.cleared with dstate := .done } }.recordOk
  | .fail code ch => s.decFail code ch

theorem decoded_recordOk (s : State) (r : DecodeResult) : s.recordOk.decoded r = s.decoded r := by
  cases r <;> rfl

theorem byteAt_keyBuffer {key : List Byte} (h : key.length ≤ 64) (i : Nat) :
    byteAt (keyBuffer key) i = key.getD i 0 := byteAt_digestBuffer h i

theorem keyBuffer_nil : keyBuffer [] = Vector.replicate 64 0 :=
  (eq_replicate_zero_iff _).2 fun i => byteAt_keyBuffer (key := []) (by decide) i

/-- R106: a completed byte goes after the key's bytes. -/
theorem keyBuffer_concat {key : List Byte} (b : Byte) (h : key.length < 64) :
    (keyBuffer key).setIfInBounds key.length b = keyBuffer (key ++ [b]) := by
  refine buffer_ext fun i => ?_
  rw [byteAt_set, byteAt_keyBuffer (by omega), byteAt_keyBuffer (by simp; omega)]
  rcases Nat.lt_trichotomy i key.length with hi | rfl | hi
  · rw [if_neg (by omega), List.getD_append _ _ _ _ hi]
  · simp [h]
  · rw [if_neg (by omega), List.getD_eq_default _ _ (by omega), List.getD_eq_default _ _ (by simp; omega)]

theorem withKey_keyLen_toNat (s : State) {key : List Byte} (h : key.length ≤ 64) :
    (s.withKey key).keyLen.toNat = key.length := Nat.mod_eq_of_lt (by omega)

/-- The key that `KEY` and `KEY_LEN` hold. -/
theorem keyBytes_withKey (s : State) {key : List Byte} (h : key.length ≤ 64) : (s.withKey key).keyBytes = key := by
  rw [State.keyBytes, withKey_keyLen_toNat s h]
  refine List.ext_getElem (by simp; omega) fun i hi hi' => ?_
  have hb := byteAt_keyBuffer h i
  rw [byteAt_eq_getElem _ (by omega)] at hb
  simpa [State.withKey, hi'] using hb

/-- R108: an OPEN and empty decoder holds the empty text. -/
theorem holding_nil_of_keyGone {s : State} (h : KeyGone s) : s.holding [] false = s := by
  obtain ⟨hdec, hlen, hkey⟩ := h
  rw [← eq_replicate_zero_iff, ← keyBuffer_nil] at hkey
  show { s with keyLen := 0, key := keyBuffer [], dec := Decoder.cleared } = s
  rw [← hlen, ← hkey, ← show s.dec = Decoder.cleared from hdec]

/-- R104: the pending bits where a byte has completed. -/
theorem ofNat_mod_mod_two_pow (a : Nat) {n : Nat} (hn : 3 ≤ n) :
    BitVec.ofNat 8 (a % 2 ^ (n + 5) % 2 ^ (n - 3)) = BitVec.ofNat 8 (a % 2 ^ (n - 3)) := by
  rw [Nat.mod_mod_of_dvd _ (pow_dvd_pow 2 (by omega))]

/-- R104: the byte that completes. -/
theorem ofNat_mod_shiftRight (a : Nat) {n : Nat} (hn : 3 ≤ n) :
    BitVec.ofNat 8 ((a % 2 ^ (n + 5)) >>> (n - 3)) = BitVec.ofNat 8 (a >>> (n - 3)) := by
  apply BitVec.eq_of_toNat_eq
  rw [BitVec.toNat_ofNat, BitVec.toNat_ofNat, Nat.shiftRight_eq_div_pow, Nat.shiftRight_eq_div_pow,
    show n + 5 = n - 3 + 8 by omega, pow_add, Nat.mod_mul_right_div_self, Nat.mod_mod]

theorem pending_nbits_toNat (t : List Byte) (peq : Bool) :
    (Decoder.pending t peq).nbits.toNat = 5 * t.length % 8 := Nat.mod_eq_of_lt (by omega)

theorem pending_acc_toNat (t : List Byte) (peq : Bool) :
    (Decoder.pending t peq).acc.toNat = bitsOf t % 2 ^ (5 * t.length % 8) := by
  refine Nat.mod_eq_of_lt (lt_of_lt_of_le (Nat.mod_lt _ (by positivity)) (Nat.pow_le_pow_right (by decide) ?_))
  omega

/-- R106: the key's length after the alphabet characters `t`. -/
theorem holding_keyLen_toNat (s : State) {t : List Byte} (peq : Bool) (h : 5 * t.length / 8 ≤ 64) :
    (s.holding t peq).keyLen.toNat = 5 * t.length / 8 :=
  (withKey_keyLen_toNat s (groups_length t ▸ h)).trans (groups_length t)

/-- R104, R106: `Pack` of an alphabet character that fits. -/
theorem packValue_holding (s : State) {t : List Byte} (c : Byte) (peq : Bool) (hl : 5 * (t.length + 1) / 8 ≤ 64) :
    (s.holding t peq).packValue (alphabetValue (upper c)) = s.holding (t ++ [c]) peq := by
  have hv : (alphabetValue (upper c)).toNat < 32 := (alphabetValue (upper c)).isLt
  have hnbits : (s.holding t peq).dec.nbits.toNat = 5 * t.length % 8 := pending_nbits_toNat t peq
  have hacc : (s.holding t peq).dec.acc.toNat = bitsOf t % 2 ^ (5 * t.length % 8) := pending_acc_toNat t peq
  rcases Nat.lt_or_ge (5 * t.length % 8) 3 with hn | hn
  · rw [packValue_few _ (by omega), hnbits, hacc, mod_two_pow_push hv, ← bitsOf_concat]
    simp only [State.holding, State.withKey, Decoder.pending, groups_concat_few c hn, List.length_append,
      List.length_singleton, show 5 * (t.length + 1) % 8 = 5 * t.length % 8 + 5 by omega]
  · have hlen := groups_length t
    have hkeyLen : (s.holding t peq).keyLen.toNat = (groups t).length := withKey_keyLen_toNat s (by omega)
    have hkey : (s.holding t peq).key = keyBuffer (groups t) := rfl
    rw [packValue_many _ (by omega), hnbits, hacc, mod_two_pow_push hv, ← bitsOf_concat, ofNat_mod_mod_two_pow _ hn,
      ofNat_mod_shiftRight _ hn, hkeyLen, hkey, keyBuffer_concat _ (by omega)]
    simp only [State.holding, State.withKey, Decoder.pending, groups_concat_many c hn, List.length_append,
      List.length_singleton, show 5 * (t.length + 1) % 8 = 5 * t.length % 8 - 3 by omega, BitVec.ofNat_add]
    rfl

/-! ### One command on a decoder that holds a text (R106, R107) -/

theorem exec_decChar_holding_ws (s : State) (t : List Byte) (peq : Bool) {c : Byte} (hw : isWS c = true) :
    exec (.decChar c) (s.holding t peq) = .next (s.recordOk.holding t peq) :=
  (exec_decChar_open c rfl).trans (congrArg _ (decCharOpen_ws _ hw))

theorem exec_decChar_holding_pad (s : State) (t : List Byte) (peq : Bool) :
    exec (.decChar padChar) (s.holding t peq) = .next (s.recordOk.holding t true) :=
  exec_decChar_open padChar rfl

theorem exec_decChar_holding_afterPad (s : State) (t : List Byte) {c : Byte} (hw : isWS c = false)
    (hc : c ≠ padChar) : exec (.decChar c) (s.holding t true) = .next (s.decFail .decBadchar padChar) :=
  (exec_decChar_open c rfl).trans (congrArg _ (decCharOpen_afterPad hw hc rfl))

theorem exec_decChar_holding_badchar (s : State) (t : List Byte) {c : Byte} (hw : isWS c = false)
    (hc : c ≠ padChar) (ha : inAlphabet (upper c) = false) :
    exec (.decChar c) (s.holding t false) = .next (s.decFail .decBadchar c) :=
  (exec_decChar_open c rfl).trans (congrArg _ (decCharOpen_badchar hw hc rfl ha))

/-- R110: the 104th alphabet character. -/
theorem exec_decChar_holding_overflow (s : State) {t : List Byte} {c : Byte} (ha : inAlphabet (upper c) = true)
    (hl : t.length = 103) : exec (.decChar c) (s.holding t false) = .next (s.decFail .decOverflow c) := by
  have hk := holding_keyLen_toNat s (t := t) false (by omega)
  have hn : (s.holding t false).dec.nbits.toNat = 5 * t.length % 8 := pending_nbits_toNat t false
  rw [exec_decChar_open c rfl, decCharOpen_feed rfl ha, decFeed_overflow (by omega) (by omega)]
  rfl

/-- R110: an earlier one. -/
theorem exec_decChar_holding_push (s : State) {t : List Byte} {c : Byte} (ha : inAlphabet (upper c) = true)
    (hl : t.length < 103) : exec (.decChar c) (s.holding t false) = .next (s.recordOk.holding (t ++ [c]) false) := by
  have hk := holding_keyLen_toNat s (t := t) false (by omega)
  have hn : (s.holding t false).dec.nbits.toNat = 5 * t.length % 8 := pending_nbits_toNat t false
  rw [exec_decChar_open c rfl, decCharOpen_feed rfl ha, decFeed_pack (by omega),
    packValue_holding s c false (by omega)]
  rfl

/-- R216: a failed decode is re-reported. -/
theorem exec_decFail {i : Instr} (hi : Instr.FeedsDecoder i) (s : State) (code : ResultCode) (ch : Byte) :
    exec i (s.decFail code ch) = .next (s.decFail code ch) := by
  obtain rfl | ⟨c, rfl⟩ := hi
  · exact exec_decEnd_error rfl
  · exact exec_decChar_error c rfl

/-! ### The reference, one character at a time (R103) -/

/-- R103: what `Decode` returns on the normalised rest `v` of a text, after the alphabet characters `t`. -/
def decodeFrom (e : Bool) (t v : List Byte) : DecodeResult :=
  match scan t.length v with
  | some (code, ch) => .fail code ch
  | none => if groups (t ++ v) = [] ∧ e then .fail .decEmpty 0 else .bytes (groups (t ++ v))

theorem decodeText_eq_decodeFrom (text : List Byte) (e : Bool) :
    decodeText text e = decodeFrom e [] (stripPad (stripWS text)) := rfl

theorem decodeFrom_nil (e : Bool) (t : List Byte) :
    decodeFrom e t [] = if groups t = [] ∧ e then .fail .decEmpty 0 else .bytes (groups t) := by
  rw [decodeFrom, List.append_nil]; rfl

theorem decodeFrom_badchar (e : Bool) (t v : List Byte) {c : Byte} (ha : inAlphabet (upper c) = false) :
    decodeFrom e t (c :: v) = .fail .decBadchar c := by
  simp [decodeFrom, scan, ha]

theorem decodeFrom_overflow (e : Bool) {t : List Byte} (v : List Byte) {c : Byte} (ha : inAlphabet (upper c) = true)
    (hl : t.length = 103) : decodeFrom e t (c :: v) = .fail .decOverflow c := by
  simp [decodeFrom, scan, ha, hl]

theorem decodeFrom_push (e : Bool) {t : List Byte} (v : List Byte) {c : Byte} (ha : inAlphabet (upper c) = true)
    (hl : t.length < 103) : decodeFrom e t (c :: v) = decodeFrom e (t ++ [c]) v := by
  have hscan : scan t.length (c :: v) = scan (t.length + 1) v := by
    rw [scan, ha, if_neg (by decide), if_neg (show ¬ 64 < 5 * (t.length + 1) / 8 by omega)]
  rw [decodeFrom, decodeFrom, hscan, List.length_append, List.length_singleton, List.append_assoc,
    List.singleton_append]

/-- R103: the suffix of `=`, from the front. -/
theorem stripPad_cons (c : Byte) (v : List Byte) :
    stripPad (c :: v) = if c = padChar ∧ stripPad v = [] then [] else c :: stripPad v := by
  rw [stripPad, List.reverse_cons, List.dropWhile_append, stripPad]
  by_cases hv : v.reverse.dropWhile (fun c => c == padChar) = []
  · by_cases hc : c = padChar <;> simp [hv, hc]
  · simp [hv]

theorem stripPad_cons_of_ne {c : Byte} (hc : c ≠ padChar) (v : List Byte) : stripPad (c :: v) = c :: stripPad v := by
  rw [stripPad_cons, if_neg fun h => hc h.1]

theorem stripWS_cons_ws {c : Byte} (hw : isWS c = true) (v : List Byte) : stripWS (c :: v) = stripWS v :=
  List.filter_cons_of_neg (by simp [hw])

theorem stripWS_cons_of_not_ws {c : Byte} (hw : isWS c = false) (v : List Byte) :
    stripWS (c :: v) = c :: stripWS v :=
  List.filter_cons_of_pos (by simp [hw])

/-- R103: what `Decode` returns where the text `text` is still to come, after the alphabet characters `t` and, where
`peq` is set, a `=` that is trailing unless more text follows. -/
def decodeRest (e : Bool) (t : List Byte) (peq : Bool) (text : List Byte) : DecodeResult :=
  decodeFrom e t (stripPad (if peq then padChar :: stripWS text else stripWS text))

theorem decodeText_eq_decodeRest (text : List Byte) (e : Bool) : decodeText text e = decodeRest e [] false text := rfl

theorem decodeRest_nil (e : Bool) (t : List Byte) (peq : Bool) : decodeRest e t peq [] = decodeFrom e t [] := by
  cases peq <;> rfl

theorem decodeRest_ws (e : Bool) (t : List Byte) (peq : Bool) {c : Byte} (hw : isWS c = true) (text : List Byte) :
    decodeRest e t peq (c :: text) = decodeRest e t peq text := by
  rw [decodeRest, stripWS_cons_ws hw, decodeRest]

/-- R106: a second `=` keeps the first pending. -/
theorem decodeRest_pad (e : Bool) (t : List Byte) (peq : Bool) (text : List Byte) :
    decodeRest e t peq (padChar :: text) = decodeRest e t true text := by
  rw [decodeRest, stripWS_cons_of_not_ws (by decide), decodeRest]
  cases peq with
  | false => rfl
  | true =>
    simp only [if_true, stripPad_cons padChar]
    by_cases hv : stripPad (stripWS text) = []
    · simp [hv]
    · simp [hv, decodeFrom_badchar e t _ (show inAlphabet (upper padChar) = false by decide)]

/-- R103: a `=` before more text is the first character outside the alphabet. -/
theorem decodeRest_afterPad (e : Bool) (t : List Byte) {c : Byte} (hw : isWS c = false) (hc : c ≠ padChar)
    (text : List Byte) : decodeRest e t true (c :: text) = .fail .decBadchar padChar := by
  rw [decodeRest, stripWS_cons_of_not_ws hw, if_pos rfl, stripPad_cons, stripPad_cons_of_ne hc, if_neg (by simp),
    decodeFrom_badchar e t _ (by decide)]

/-- R103: another character stays. -/
theorem decodeRest_cons (e : Bool) (t : List Byte) {c : Byte} (hw : isWS c = false) (hc : c ≠ padChar)
    (text : List Byte) : decodeRest e t false (c :: text) = decodeFrom e t (c :: stripPad (stripWS text)) := by
  rw [decodeRest, stripWS_cons_of_not_ws hw, if_neg (by decide), stripPad_cons_of_ne hc]

/-! ### Runs of commands -/

/-- R86, R187: the host's turn on a command statement while `BUSY` = 0. -/
theorem step_cmd {s u : State} {i : Instr} {hs : List HostAccess} (hb : s.busy = false) (ht : s.turns = [])
    (hh : s.host = Asm.cmd i :: hs) (e : exec i { s with host := hs } = .next u) : step s = .next u :=
  (step_command ⟨hs, hh, .inl ⟨ht, rfl⟩⟩ hb).trans ((performCommand_encode i _).trans e)

/-- R216: commands that feed a failed decoder. -/
theorem runsTo_decFail {is : List Instr} (hi : ∀ i ∈ is, Instr.FeedsDecoder i) {s : State} {rest : List HostAccess}
    (code : ResultCode) (ch : Byte) (hb : s.busy = false) (ht : s.turns = [])
    (hh : s.host = is.map Asm.cmd ++ rest) :
    RunsTo is.length (s.decFail code ch) ({ s with host := rest }.decFail code ch) := by
  induction is generalizing s with
  | nil => exact runsTo_zero.2 (by rw [← show s.host = rest from hh])
  | cons i is ih =>
    have hstep := step_cmd (s := s.decFail code ch) hb ht hh
      (exec_decFail (hi i List.mem_cons_self) { s with host := is.map Asm.cmd ++ rest } code ch)
    exact (runsTo_succ hstep).2
      (ih (fun j hj => hi j (List.mem_cons_of_mem i hj)) (s := { s with host := is.map Asm.cmd ++ rest }) hb ht rfl)

/-- R106, R103: what one more character does to the decoder and to the reference: both go on, or both fail. -/
theorem decChar_agrees_with_decodeRest (s : State) {t : List Byte} (peq : Bool) (c : Byte) (hl : t.length ≤ 103) :
    (∃ t' peq', t'.length ≤ 103 ∧ exec (.decChar c) (s.holding t peq) = .next (s.recordOk.holding t' peq') ∧
      ∀ e text, decodeRest e t peq (c :: text) = decodeRest e t' peq' text) ∨
    (∃ code ch, exec (.decChar c) (s.holding t peq) = .next (s.decFail code ch) ∧
      ∀ e text, decodeRest e t peq (c :: text) = .fail code ch) := by
  cases hw : isWS c with
  | true => exact .inl ⟨t, peq, hl, exec_decChar_holding_ws s t peq hw, fun e => decodeRest_ws e t peq hw⟩
  | false =>
    by_cases hc : c = padChar
    · subst hc
      exact .inl ⟨t, true, hl, exec_decChar_holding_pad s t peq, fun e => decodeRest_pad e t peq⟩
    cases peq with
    | true => exact .inr ⟨_, _, exec_decChar_holding_afterPad s t hw hc, fun e => decodeRest_afterPad e t hw hc⟩
    | false =>
      cases ha : inAlphabet (upper c) with
      | false =>
        exact .inr ⟨_, _, exec_decChar_holding_badchar s t hw hc ha, fun e text =>
          (decodeRest_cons e t hw hc text).trans (decodeFrom_badchar e t _ ha)⟩
      | true =>
        rcases Nat.lt_or_eq_of_le hl with hlt | heq
        · exact .inl ⟨t ++ [c], false, by simpa using hlt, exec_decChar_holding_push s ha hlt, fun e text =>
            (decodeRest_cons e t hw hc text).trans (decodeFrom_push e _ ha hlt)⟩
        · exact .inr ⟨_, _, exec_decChar_holding_overflow s ha heq, fun e text =>
            (decodeRest_cons e t hw hc text).trans (decodeFrom_overflow e _ ha heq)⟩

/-- R107, R103: the end of the text. -/
theorem exec_decEnd_holding (s : State) {t : List Byte} (peq : Bool) (hl : t.length ≤ 103) :
    exec .decEnd (s.holding t peq) = .next (s.decoded (decodeRest s.ctrl.emptyErr t peq [])) := by
  have hlen := groups_length t
  have hempty : (s.holding t peq).keyLen = 0 ↔ groups t = [] := by
    rw [← BitVec.toNat_inj, holding_keyLen_toNat s peq (by omega), ← List.length_eq_zero_iff, hlen]; rfl
  rw [exec_decEnd_open rfl, decodeRest_nil, decodeFrom_nil]
  by_cases h : groups t = [] ∧ s.ctrl.emptyErr = true
  · rw [decEndOpen_empty (hempty.2 h.1) h.2, if_pos h]; rfl
  · rw [decEndOpen_done (by rw [hempty]; exact h), if_neg h]; rfl

/-- R87: the commands that feed a text and end it. -/
def feedCommands (text : List Byte) : List Instr := text.map .decChar ++ [.decEnd]

theorem feedsDecoder_of_mem_feedCommands {text : List Byte} {i : Instr} (h : i ∈ feedCommands text) :
    Instr.FeedsDecoder i := by
  rcases List.mem_append.1 h with h | h
  · obtain ⟨c, -, rfl⟩ := List.mem_map.1 h
    exact .inr ⟨c, rfl⟩
  · exact .inl (List.mem_singleton.1 h)

theorem feedCommands_length (text : List Byte) : (feedCommands text).length = text.length + 1 := by
  simp [feedCommands]

theorem decStr_eq (text : List Byte) : Asm.decStr text = Asm.cmd .decClr :: (feedCommands text).map Asm.cmd := by
  simp [Asm.decStr, feedCommands]

/-- R111, from any point of the text: the commands for the rest of it compute what `Decode` returns. -/
theorem runsTo_feedCommands {text : List Byte} {s : State} {t : List Byte} {peq : Bool} {rest : List HostAccess}
    (hl : t.length ≤ 103) (hb : s.busy = false) (ht : s.turns = [])
    (hh : s.host = (feedCommands text).map Asm.cmd ++ rest) :
    RunsTo (text.length + 1) (s.holding t peq)
      ({ s with host := rest }.decoded (decodeRest s.ctrl.emptyErr t peq text)) := by
  induction text generalizing s t peq with
  | nil =>
    have hend := step_cmd (s := s.holding t peq) hb ht hh (exec_decEnd_holding { s with host := rest } peq hl)
    exact (runsTo_succ hend).2 (runsTo_zero.2 rfl)
  | cons c text ih =>
    let s1 : State := { s with host := (feedCommands text).map Asm.cmd ++ rest }
    obtain ⟨t', peq', hl', e, hrest⟩ | ⟨code, ch, e, hrest⟩ := decChar_agrees_with_decodeRest s1 peq c hl
    · rw [hrest, ← decoded_recordOk]
      exact (runsTo_succ (step_cmd (s := s.holding t peq) hb ht hh e)).2 (ih (s := s1.recordOk) hl' hb ht rfl)
    · have hfail := runsTo_decFail (fun _ => feedsDecoder_of_mem_feedCommands) (s := s1) code ch hb ht rfl
      rw [feedCommands_length] at hfail
      rw [hrest]
      exact (runsTo_succ (step_cmd (s := s.holding t peq) hb ht hh e)).2 hfail

/-- R111: `dec.str` leaves the state of `Decode`'s result. -/
theorem runsTo_decStr {s : State} {text : List Byte} {rest : List HostAccess} (hb : s.busy = false)
    (ht : s.turns = []) (hh : s.host = Asm.decStr text ++ rest) :
    RunsTo (text.length + 2) s ({ s with host := rest }.decoded (decodeText text s.ctrl.emptyErr)) := by
  let s1 : State := { s with host := (feedCommands text).map Asm.cmd ++ rest }
  have hclr : s1.recordOk.holding [] false = s1.decClear.recordOk :=
    holding_nil_of_keyGone (s := s1.decClear.recordOk) (keyGone_of_cleared rfl rfl rfl)
  have hfeed := runsTo_feedCommands (text := text) (s := s1.recordOk) (t := []) (peq := false) (rest := rest)
    (by decide) hb ht rfl
  rw [hclr] at hfeed
  rw [decStr_eq] at hh
  rw [decodeText_eq_decodeRest, ← decoded_recordOk]
  exact (runsTo_succ (step_cmd hb ht hh rfl)).2 hfeed

/-- R103: no key is longer than the buffer. -/
theorem length_of_scan_eq_none {m : Nat} {v : List Byte} (hm : m ≤ 103) (h : scan m v = none) :
    m + v.length ≤ 103 := by
  induction v generalizing m with
  | nil => exact hm
  | cons c v ih =>
    rw [scan] at h
    split_ifs at h with ha hl
    have hl : ¬ 64 < 5 * (m + 1) / 8 := hl
    have := ih (by omega) h
    simp only [List.length_cons]; omega

theorem length_of_decodeText_eq_bytes {text key : List Byte} {e : Bool} (h : decodeText text e = .bytes key) :
    key.length ≤ 64 := by
  rw [decodeText] at h
  split at h
  · cases h
  · next hscan =>
    have hlen := length_of_scan_eq_none (by decide) hscan
    split_ifs at h
    cases h
    rw [groups_length]; omega

/-- Settles O27: the run of `dec.str` leaves the state of the reference's result. -/
theorem serialDecodeRefinesDecode : Obligations.SerialDecodeRefinesDecode := by
  intro s text rest hb ht hh
  refine ⟨_, runsTo_decStr hb ht hh, ?_⟩
  cases hr : decodeText text s.ctrl.emptyErr with
  | bytes key =>
    have hlen := length_of_decodeText_eq_bytes hr
    exact ⟨rfl, ht, hb, rfl, rfl, withKey_keyLen_toNat s hlen, keyBytes_withKey s hlen, rfl, rfl⟩
  | fail code ch => exact ⟨rfl, ht, hb, rfl, rfl, rfl, rfl, rfl, rfl, rfl⟩

/-! ### Alphabet characters only (R110, R112) -/

/-- R104, R106: at most 103 alphabet characters in all are held. -/
theorem runsTo_alphabet {text : List Byte} (ha : ∀ c ∈ text, inAlphabet (upper c) = true) {s : State}
    {t : List Byte} {rest : List HostAccess} (hl : t.length + text.length ≤ 103) (hb : s.busy = false)
    (ht : s.turns = []) (hh : s.host = (text.map .decChar).map Asm.cmd ++ rest) :
    ∃ err ch, RunsTo text.length (s.holding t false)
      ({ s with host := rest, err := err, errChar := ch }.holding (t ++ text) false) := by
  induction text generalizing s t with
  | nil => exact ⟨s.err, s.errChar, runsTo_zero.2 (by rw [List.append_nil, ← show s.host = rest from hh])⟩
  | cons c text ih =>
    rw [List.length_cons] at hl
    let s1 : State := { s with host := (text.map .decChar).map Asm.cmd ++ rest }
    have hstep := step_cmd (s := s.holding t false) hb ht hh
      (exec_decChar_holding_push s1 (ha c List.mem_cons_self) (by omega))
    obtain ⟨err, ch, hrun⟩ := ih (fun d hd => ha d (List.mem_cons_of_mem c hd)) (s := s1.recordOk) (t := t ++ [c])
      (by simp; omega) hb ht rfl
    rw [List.append_assoc, List.singleton_append] at hrun
    exact ⟨err, ch, (runsTo_succ hstep).2 hrun⟩

/-- R110: the 104th alphabet character overflows, and the characters after it re-report it. -/
theorem runsTo_overflow {pre post : List Byte} {c : Byte}
    (ha : ∀ d ∈ pre ++ c :: post, inAlphabet (upper d) = true) {s : State} (hl : pre.length = 103)
    (hb : s.busy = false) (ht : s.turns = [])
    (hh : s.host = ((pre ++ c :: post).map .decChar).map Asm.cmd) :
    RunsTo (pre ++ c :: post).length (s.holding [] false) ({ s with host := [] }.decFail .decOverflow c) := by
  let s1 : State := { s with host := (post.map .decChar).map Asm.cmd }
  let s2 (err : ResultCode) (ch : Byte) : State :=
    { s with host := ((c :: post).map .decChar).map Asm.cmd, err := err, errChar := ch }
  obtain ⟨err, ch, hpre⟩ := runsTo_alphabet (fun d hd => ha d (List.mem_append_left _ hd)) (s := s) (t := [])
    (rest := ((c :: post).map .decChar).map Asm.cmd) (by simp [hl]) hb ht (by simp [hh])
  have hstep := step_cmd (s := (s2 err ch).holding pre false) hb ht rfl
    (exec_decChar_holding_overflow { s1 with err := err, errChar := ch }
      (ha c (List.mem_append_right _ List.mem_cons_self)) hl)
  have hpost := runsTo_decFail (is := post.map .decChar) (fun i hi => by
    obtain ⟨d, -, rfl⟩ := List.mem_map.1 hi
    exact .inr ⟨d, rfl⟩) (s := s1) (rest := []) .decOverflow c hb ht (List.append_nil _).symm
  rw [List.length_map] at hpost
  rw [List.length_append, List.length_cons]
  exact hpre.trans ((runsTo_succ hstep).2 hpost)

/-- Settles O28: up to 103 characters are held; the 104th overflows. -/
theorem packedLengths : Obligations.PackedLengths := by
  intro s text ha hb ht hh hkey
  have ha : ∀ c ∈ text, inAlphabet (upper c) = true := fun c hc => (inAlphabet_iff_mem _).2 (ha c hc)
  have hh : s.host = (text.map .decChar).map Asm.cmd := by rw [hh, List.map_map]; rfl
  rcases Nat.lt_or_ge 103 text.length with hl | hl
  · have hsplit : text = text.take 103 ++ text[103] :: text.drop 104 := by
      rw [← List.drop_eq_getElem_cons hl, List.take_append_drop]
    have hrun := runsTo_overflow (pre := text.take 103) (c := text[103]) (post := text.drop 104)
      (hsplit ▸ ha) (by simp; omega) hb ht (hsplit ▸ hh)
    rw [holding_nil_of_keyGone hkey, ← hsplit] at hrun
    exact ⟨_, hrun, fun h => absurd h (by omega), fun _ => ⟨rfl, rfl, List.getElem?_eq_getElem hl⟩⟩
  · obtain ⟨err, ch, hrun⟩ := runsTo_alphabet ha (s := s) (t := []) (rest := []) (by simpa using hl) hb ht
      (by rw [hh, List.append_nil])
    rw [holding_nil_of_keyGone hkey] at hrun
    exact ⟨_, hrun, fun _ => ⟨rfl, holding_keyLen_toNat _ false (show 5 * text.length / 8 ≤ 64 by omega),
      pending_nbits_toNat text false⟩,
      fun h => absurd h (by omega)⟩

/-! ### What `Decode` does not see (R102, R103, R109) -/

theorem decodeText_filter_ws (text : List Byte) (e : Bool) :
    decodeText (text.filter fun c => !isWS c) e = decodeText text e := by
  have h : stripWS (text.filter fun c => !isWS c) = stripWS text := by simp [stripWS]
  rw [decodeText_eq_decodeFrom, h, decodeText_eq_decodeFrom]

theorem stripPad_append_replicate (v : List Byte) (k : Nat) :
    stripPad (v ++ List.replicate k padChar) = stripPad v := by
  rw [stripPad, List.reverse_append, List.reverse_replicate, List.dropWhile_append_of_pos, stripPad]
  intro c hc
  rw [List.eq_of_mem_replicate hc]; rfl

theorem decodeText_append_pads (text : List Byte) (k : Nat) (e : Bool) :
    decodeText (text ++ List.replicate k 0x3D) e = decodeText text e := by
  have h : stripWS (text ++ List.replicate k 0x3D) = stripWS text ++ List.replicate k padChar := by
    rw [stripWS, List.filter_append, List.filter_replicate, if_pos (by decide)]; rfl
  rw [decodeText_eq_decodeFrom, h, stripPad_append_replicate, decodeText_eq_decodeFrom]

/-- R102: folding keeps the classes, and a folded character stays. -/
theorem upper_classes : ∀ c : Byte, isWS (upper c) = isWS c ∧ (upper c == padChar) = (c == padChar) ∧
    upper (upper c) = upper c := by decide

theorem upper_upper (c : Byte) : upper (upper c) = upper c := (upper_classes c).2.2

theorem stripWS_map_upper (text : List Byte) : stripWS (text.map upper) = (stripWS text).map upper := by
  rw [stripWS, List.filter_map, stripWS]
  congr 2
  funext c
  exact congrArg not (upper_classes c).1

theorem stripPad_map_upper (v : List Byte) : stripPad (v.map upper) = (stripPad v).map upper := by
  rw [stripPad, ← List.map_reverse, List.dropWhile_map, ← List.map_reverse, stripPad]
  congr 3
  funext c
  exact (upper_classes c).2.1

theorem scan_map_upper (m : Nat) (v : List Byte) :
    scan m (v.map upper) = (scan m v).map fun r => (r.1, upper r.2) := by
  induction v generalizing m with
  | nil => rfl
  | cons c v ih =>
    simp only [List.map_cons, scan, upper_upper, ih]
    split_ifs <;> rfl

theorem groups_map_upper (v : List Byte) : groups (v.map upper) = groups v := by
  simp only [groups, bitsOf, List.length_map, List.foldl_map, upper_upper]

/-- The result with the character named in upper case. -/
def DecodeResult.upperChar : DecodeResult → DecodeResult
  | .bytes key => .bytes key
  | .fail code ch => .fail code (upper ch)

theorem decodeText_map_upper (text : List Byte) (e : Bool) :
    decodeText (text.map upper) e = (decodeText text e).upperChar := by
  rw [decodeText, decodeText, stripWS_map_upper, stripPad_map_upper, scan_map_upper, groups_map_upper]
  cases scan 0 (stripPad (stripWS text)) with
  | some r => rfl
  | none =>
    simp only [Option.map_none]
    split_ifs <;> rfl

/-- Settles O29: `dec.str` leaves the state of `Decode`'s result, which is that of the normalised text. -/
theorem decodeIgnoresNormalisedParts : Obligations.DecodeIgnoresNormalisedParts := by
  intro s text k rest hb ht feeds
  have run (text' : List Byte) {r : DecodeResult} (h : decodeText text' s.ctrl.emptyErr = r) :
      feeds text' ({ s with host := rest }.decoded r) := h ▸ runsTo_decStr hb ht rfl
  refine ⟨_, _, run text rfl, run _ (decodeText_filter_ws text _), run _ (decodeText_append_pads text k _),
    run _ (decodeText_map_upper text _), ?_⟩
  cases decodeText text s.ctrl.emptyErr with
  | bytes key => exact ⟨rfl, nofun, fun _ => rfl, nofun⟩
  | fail code ch => exact ⟨rfl, nofun, nofun, fun _ => ⟨rfl, rfl, rfl⟩⟩

end Sys2Proof.Machine
end

section
/-! PROOFS of the statements on the counter generator (spec/41_counter.md). -/

open Sys2Proof

namespace Sys2Proof.Machine

/-! ### What `CTR_GEN` computes (R140, R141) -/

theorem stepSeconds_toNat_pos {s : State} (hs : s.stepSeconds ≠ 0) : 0 < s.stepSeconds.toNat :=
  Nat.pos_of_ne_zero fun h => hs (BitVec.eq_of_toNat_eq h)

/-- R141: `CTR_GEN` leaves the quotient and the seconds remaining, as integers. -/
theorem ctrGen_counter {s t : State} (hs : s.stepSeconds ≠ 0) (h : exec .ctrGen s = .next t) :
    t.ctr.toNat = s.time.toNat / s.stepSeconds.toNat ∧
    t.remain.toNat = s.stepSeconds.toNat - s.time.toNat % s.stepSeconds.toNat := by
  rw [exec_ctrGen_ok hs] at h
  cases h
  exact ⟨ctr_counterCompute_toNat s.clearCode, remain_counterCompute_toNat s.clearCode hs⟩

/-- R141: a time that divides by `STEP` leaves the whole `STEP`. -/
theorem ctrGen_remain_of_mod_eq_zero {s t : State} (hs : s.stepSeconds ≠ 0) (h : exec .ctrGen s = .next t)
    (hm : s.time.toNat % s.stepSeconds.toNat = 0) : t.remain = s.stepSeconds :=
  BitVec.eq_of_toNat_eq (by rw [(ctrGen_counter hs h).2, hm, Nat.sub_zero])

/-- R143: the counter that `ClearCounter` leaves. -/
theorem ctr_clearCounter (s : State) : s.clearCounter.ctr = 0 :=
  show (0 ++ 0 : BitVec (32 + 32)) = 0 by decide

/-- R163: what `ClearCode` leaves. -/
theorem codeGone_clearCode (s : State) : CodeGone s.clearCode :=
  ⟨rfl, rfl, rfl, rfl, byteAt_replicate_zero 12⟩

/-- Settles O30: the quotient and the rest of the division bound the counter and the seconds remaining. -/
theorem ctrGenByCase : Obligations.CtrGenByCase := by
  refine ⟨rfl, fun s => ⟨fun hs => ?_, fun hs => ⟨_, exec_ctrGen_zero hs, codeGone_clearCode s, rfl⟩⟩⟩
  have hrun := exec_ctrGen_ok hs
  obtain ⟨hctr, hremain⟩ := ctrGen_counter hs hrun
  have hpos := stepSeconds_toNat_pos hs
  have hmod := Nat.mod_lt s.time.toNat hpos
  refine ⟨_, hrun, ?_, ?_, ?_, hremain, by omega, by omega, codeGone_clearCode s, rfl⟩
  · rw [hctr]; exact Nat.div_mul_le_self _ _
  · rw [hctr]; exact (Nat.div_lt_iff_lt_mul hpos).1 (Nat.lt_succ_self _)
  · rw [hctr]; exact Nat.div_le_self _ _

/-! ### The corner cases (R142) -/

/-- R62: the message of a counter of at least 2^32 has a nonzero byte among its first four. -/
theorem be8_take_four_ne_zero {c : DWord} (hc : 2 ^ 32 ≤ c.toNat) : (be8 c).take 4 ≠ [0, 0, 0, 0] := by
  intro h
  have hlt := c.isLt
  simp only [be8, List.take_succ_cons, List.take_zero, List.cons.injEq, ← BitVec.toNat_inj,
    BitVec.extractLsb'_toNat, Nat.shiftRight_eq_div_pow, BitVec.ofNat_eq_ofNat, BitVec.toNat_ofNat] at h
  omega

/-- Settles O31: each corner is an instance of the integer quotient and rest. -/
theorem counterCornerCases : Obligations.CounterCornerCases := by
  intro s t h
  have counter (hs : s.stepSeconds ≠ 0) := ctrGen_counter hs h
  have whole (hs : s.stepSeconds ≠ 0) := ctrGen_remain_of_mod_eq_zero hs h
  have ne_zero {n : Nat} (hn : n < s.stepSeconds.toNat) : s.stepSeconds ≠ 0 := fun h0 => by simp [h0] at hn
  refine ⟨fun h1 => ?_, fun hlt => ?_, fun hs hm => ?_, fun hs hm => ?_,
    fun ht h30 => ?_, fun hs hbig => ?_, fun hmax => ?_, fun h0 => ?_⟩
  · -- (a) `STEP` = 1
    have hs : s.stepSeconds ≠ 0 := by rw [h1]; decide
    have hctr := (counter hs).1
    rw [h1] at hctr
    exact ⟨BitVec.eq_of_toNat_eq (hctr.trans (Nat.div_one _)),
      h1 ▸ whole hs (by rw [h1]; exact Nat.mod_one _)⟩
  · -- (b) a time before the first step
    obtain ⟨hctr, hremain⟩ := counter (ne_zero hlt)
    rw [Nat.div_eq_of_lt hlt] at hctr
    rw [Nat.mod_eq_of_lt hlt] at hremain
    exact ⟨BitVec.eq_of_toNat_eq hctr, hremain, fun h0 => whole (ne_zero hlt) (by simp [h0])⟩
  · -- (c) a time that divides by `STEP`
    exact ⟨whole hs hm, whole hs hm ▸ hs⟩
  · -- (d) the last second of a window
    have hremain := (counter hs).2
    rw [hm, Nat.sub_sub_self (stepSeconds_toNat_pos hs)] at hremain
    exact BitVec.eq_of_toNat_eq hremain
  · -- (e) the greatest time
    obtain ⟨hctr, hremain⟩ := counter (by rw [h30]; decide)
    rw [ht, h30] at hctr hremain
    exact ⟨BitVec.eq_of_toNat_eq hctr, BitVec.eq_of_toNat_eq hremain⟩
  · -- (e) a counter past 32 bits
    refine be8_take_four_ne_zero ?_
    rw [(counter hs).1]
    exact (Nat.le_div_iff_mul_le (stepSeconds_toNat_pos hs)).2 hbig
  · -- (f) the greatest `STEP`
    have hlt := s.time.isLt
    rw [(counter (ne_zero (n := 0) (by omega))).1, hmax]
    omega
  · -- (g) `STEP` = 0
    rw [exec_ctrGen_zero h0] at h
    cases h
    exact ⟨rfl, ctr_clearCounter s.clearCode, rfl⟩

/-! ### The counter as a function of the time (R144) -/

/-- Settles O32: two runs with one `STEP` divide by the same integer. -/
theorem counterMonotoneInTime : Obligations.CounterMonotoneInTime := by
  intro s1 s2 t1 t2 hs hstep h1 h2
  have hctr1 := (ctrGen_counter hs h1).1
  have hctr2 := (ctrGen_counter (hstep ▸ hs) h2).1
  rw [hstep] at hctr2
  refine ⟨fun hle => ?_, fun hwindow => ?_, fun hnext => ?_⟩
  · rw [hctr1, hctr2]; exact Nat.div_le_div_right hle
  · exact BitVec.eq_of_toNat_eq (hctr1.trans (hwindow.trans hctr2.symm))
  · rw [hctr1, hctr2, hnext, Nat.add_div_right _ (stepSeconds_toNat_pos hs)]

end Sys2Proof.Machine
end

section
/-! PROOFS of the statements on the digit extractor (spec/42_digits.md). -/

open Sys2Proof

namespace Sys2Proof.Machine

/-! ### The truncation (R161, R164) -/

/-- R161: the offset is the digest's last byte masked to 4 bits. -/
theorem truncOffset_toNat_eq_and (digest : Vector Byte 64) (len : Nat) :
    (truncOffset digest len).toNat = (byteAt digest (len - 1) &&& 0x0F).toNat := by
  rw [truncOffset_toNat, BitVec.toNat_and, show (0x0F : Byte).toNat = 2 ^ 4 - 1 from rfl,
    Nat.and_two_pow_sub_one_eq_mod]

/-- R164: the truncation reads bytes 0 to 18 and the digest's last byte only. -/
theorem truncation_congr {v w : Vector Byte 64} {len : Nat}
    (h : ∀ i, i < 19 ∨ i = len - 1 → byteAt v i = byteAt w i) :
    truncOffset v len = truncOffset w len ∧ truncValue v len = truncValue w len := by
  have hoff : truncOffset v len = truncOffset w len := by rw [truncOffset, h _ (.inr rfl), truncOffset]
  have hlt := (truncOffset w len).isLt
  have read (k : Nat) (hk : k < 4) := h ((truncOffset w len).toNat + k) (.inl (by omega))
  refine ⟨hoff, ?_⟩
  simp only [truncValue, hoff]
  rw [h (truncOffset w len).toNat (.inl (by omega)), read 1 (by decide), read 2 (by decide), read 3 (by decide)]

/-- R165(a): the sign bit of four bytes 0xFF is discarded. -/
theorem truncValue_of_all_ones {digest : Vector Byte 64} {len : Nat}
    (h : ∀ k, k < 4 → byteAt digest ((truncOffset digest len).toNat + k) = 0xFF) :
    (truncValue digest len).toNat = 2147483647 := by
  have h0 : byteAt digest (truncOffset digest len).toNat = 0xFF := h 0 (by decide)
  rw [truncValue_toNat, h0, h 1 (by decide), h 2 (by decide), h 3 (by decide)]
  rfl

/-! ### The characters (R162) -/

theorem byteAt_asciiOf_of_lt (n : Nat) {d j : Nat} (hd : d ≤ 10) (hj : j < d) :
    byteAt (asciiOf n d) j = decDigit n d j := by
  rw [byteAt_asciiOf, if_pos ⟨by omega, hj⟩]

theorem byteAt_asciiOf_of_le (n : Nat) {d j : Nat} (hj : d ≤ j) : byteAt (asciiOf n d) j = 0 := by
  rw [byteAt_asciiOf, if_neg (by omega)]

/-- R165(d): a position the number does not reach holds `0`. -/
theorem decDigit_of_lt {n d j : Nat} (h : n < 10 ^ (d - 1 - j)) : decDigit n d j = 0x30 := by
  rw [decDigit, Nat.div_eq_of_lt h]; rfl

/-- R162: the first `k` of the `d` characters of `n`, read in decimal, are `n` without its last `d - k` digits. -/
theorem foldl_decDigit {n d : Nat} (hn : n < 10 ^ d) {k : Nat} (hk : k ≤ d) :
    (List.range k).foldl (fun m j => m * 10 + ((decDigit n d j).toNat - 0x30)) 0 = n / 10 ^ (d - k) := by
  induction k with
  | zero => exact (Nat.div_eq_of_lt hn).symm
  | succ k ih =>
    have hshift : n / 10 ^ (d - k) = n / 10 ^ (d - 1 - k) / 10 := by
      rw [Nat.div_div_eq_div_mul, ← Nat.pow_succ, show (d - 1 - k).succ = d - k by omega]
    rw [List.range_succ, List.foldl_append, ih (by omega), List.foldl_cons, List.foldl_nil, decDigit_toNat,
      Nat.add_sub_cancel_left, hshift, Nat.div_add_mod', show d - (k + 1) = d - 1 - k by omega]

/-- R162: the `d` characters of a number below `10^d` read back as the number. -/
theorem foldl_asciiOf {n d : Nat} (hd : d ≤ 10) (hn : n < 10 ^ d) :
    (List.range d).foldl (fun m j => m * 10 + ((byteAt (asciiOf n d) j).toNat - 0x30)) 0 = n := by
  have hchars : (List.range d).foldl (fun m j => m * 10 + ((byteAt (asciiOf n d) j).toNat - 0x30)) 0 =
      (List.range d).foldl (fun m j => m * 10 + ((decDigit n d j).toNat - 0x30)) 0 :=
    List.foldl_ext _ _ _ fun m j hj => by rw [byteAt_asciiOf_of_lt n hd (List.mem_range.1 hj)]
  rw [hchars, foldl_decDigit hn le_rfl, Nat.sub_self, Nat.pow_zero, Nat.div_one]

/-! ### What `DIG_EXT` computes (R160, R161) -/

/-- R161: the code registers `DIG_EXT` leaves when both checks pass. -/
theorem digExt_code {s t : State} (hd : s.digitsLegal = true) (hl : digestLenLegal s.digestLen.toNat = true)
    (h : exec .digExt s = .next t) :
    t.offset = truncOffset s.digest s.digestLen.toNat ∧ t.trunc = truncValue s.digest s.digestLen.toNat ∧
    t.code.toNat = t.trunc.toNat % 10 ^ s.ctrl.digits.toNat ∧
    t.ascii = asciiOf t.code.toNat s.ctrl.digits.toNat := by
  rw [exec_digExt_ok hd hl] at h
  cases h
  have hcode := code_extract_toNat s.clearCode s.digestLen.toNat s.ctrl.digits.toNat
  exact ⟨rfl, rfl, hcode, by rw [State.recordOk_code, hcode]; rfl⟩

/-- R161: the code has at most `DIGITS` digits. -/
theorem digExt_code_lt {s t : State} (hd : s.digitsLegal = true) (hl : digestLenLegal s.digestLen.toNat = true)
    (h : exec .digExt s = .next t) : t.code.toNat < 10 ^ s.ctrl.digits.toNat := by
  obtain ⟨-, -, hcode, -⟩ := digExt_code hd hl h
  rw [hcode]; exact Nat.mod_lt _ (by positivity)

/-- Settles O34: an equation of `DIG_EXT` for each outcome of the two checks. -/
theorem digExtByCase : Obligations.DigExtByCase := by
  refine ⟨rfl, fun s => ⟨fun hd => ?_, fun hd1 hd10 hl => ?_, fun hd1 hd10 hl20 hl64 => ?_⟩⟩
  · have hd : s.digitsLegal = false := by rw [Bool.eq_false_iff, ne_eq, digitsLegal_iff]; omega
    exact ⟨_, exec_digExt_digits hd, codeGone_clearCode s, rfl⟩
  · have hl : digestLenLegal s.digestLen.toNat = false := by rw [Bool.eq_false_iff, ne_eq, digestLenLegal_iff]; omega
    exact ⟨_, exec_digExt_length ((digitsLegal_iff s).2 ⟨hd1, hd10⟩) hl, codeGone_clearCode s, rfl⟩
  · have hd := (digitsLegal_iff s).2 ⟨hd1, hd10⟩
    have hl := (digestLenLegal_iff _).2 ⟨hl20, hl64⟩
    have hrun := exec_digExt_ok hd hl
    obtain ⟨hoff, -, hcode, hascii⟩ := digExt_code hd hl hrun
    have hmask := truncOffset_toNat_eq_and s.digest s.digestLen.toNat
    refine ⟨_, hrun, ⟨hoff ▸ hmask, ?_⟩, hcode, fun j hj => ?_, fun j hj => ?_, rfl⟩
    · rw [← hmask]; exact low31_setWidth _
    · rw [hascii, byteAt_asciiOf_of_lt _ hd10 hj, decDigit_toNat]
    · rw [hascii, byteAt_asciiOf_of_le _ hj]

/-- Settles O35: the characters are decimal digits of a code that has at most `DIGITS` of them. -/
theorem asciiReadsBackAsCode : Obligations.AsciiReadsBackAsCode := by
  intro s hd hl
  have hrun := exec_digExt_ok hd hl
  obtain ⟨-, hd10⟩ := (digitsLegal_iff s).1 hd
  obtain ⟨-, -, -, hascii⟩ := digExt_code hd hl hrun
  refine ⟨_, hrun, fun j hj => ?_, ?_⟩
  · rw [hascii, byteAt_asciiOf_of_lt _ hd10 hj, decDigit_toNat]; omega
  · rw [hascii]; exact foldl_asciiOf hd10 (digExt_code_lt hd hl hrun)

/-- Settles O36: the two truncations agree, and the code registers are a function of them and of `DIGITS`. -/
theorem extractionReadsInsideDigest : Obligations.ExtractionReadsInsideDigest := by
  intro s1 s2 hd1 hl1 hlen hdigits hbytes
  have hd2 : s2.digitsLegal = true := by rw [digitsLegal_iff, hdigits, ← digitsLegal_iff]; exact hd1
  have hl2 : digestLenLegal s2.digestLen.toNat = true := hlen ▸ hl1
  obtain ⟨t1, hrun1⟩ : ∃ t, exec .digExt s1 = .next t := ⟨_, exec_digExt_ok hd1 hl1⟩
  obtain ⟨t2, hrun2⟩ : ∃ t, exec .digExt s2 = .next t := ⟨_, exec_digExt_ok hd2 hl2⟩
  obtain ⟨hoff1, htrunc1, hcode1, hascii1⟩ := digExt_code hd1 hl1 hrun1
  obtain ⟨hoff2, htrunc2, hcode2, hascii2⟩ := digExt_code hd2 hl2 hrun2
  obtain ⟨hoff, htrunc⟩ := truncation_congr hbytes
  have hlt := (truncOffset s1.digest s1.digestLen.toNat).isLt
  obtain ⟨hl20, -⟩ := (digestLenLegal_iff _).1 hl1
  rw [hlen] at hoff2 htrunc2
  have ht : t1.trunc = t2.trunc := htrunc1.trans (htrunc.trans htrunc2.symm)
  have hc : t1.code.toNat = t2.code.toNat := by rw [hcode1, hcode2, ht, hdigits]
  refine ⟨t1, t2, hrun1, hrun2, hoff1, ?_, ?_, hoff1.trans (hoff.trans hoff2.symm), ht, BitVec.eq_of_toNat_eq hc, ?_⟩
  · rw [hoff1]; omega
  · rw [hoff1]; omega
  · rw [hascii1, hascii2, hc, hdigits]

/-- Settles O37: each value is an instance of the code as the truncation mod `10^DIGITS`, and of its characters. -/
theorem extractionValues : Obligations.ExtractionValues := by
  intro s t hd hl hrun
  obtain ⟨hoff, htrunc, hcode, hascii⟩ := digExt_code hd hl hrun
  obtain ⟨hd1, hd10⟩ := (digitsLegal_iff s).1 hd
  have hlt := t.trunc.isLt
  have hle : t.code.toNat ≤ t.trunc.toNat := hcode ▸ Nat.mod_le _ _
  refine ⟨fun hones => ?_, fun h10 => ?_, fun h1 => ⟨?_, ?_⟩, fun hsmall => ?_, fun hzero j hj => ?_,
    digExt_code_lt hd hl hrun, hle.trans_lt hlt⟩
  · -- (a) four bytes 0xFF
    rw [htrunc]; exact truncValue_of_all_ones (hoff ▸ hones)
  · -- (b) ten digits
    rw [hcode, h10]; exact Nat.mod_eq_of_lt (hlt.trans (by decide))
  · -- (c) one digit
    rw [hcode, h1]; rfl
  · -- (c) no second character
    rw [hascii, h1]; exact byteAt_asciiOf_of_le _ le_rfl
  · -- (d) a leading zero
    rw [hascii, byteAt_asciiOf_of_lt _ hd10 hd1]; exact decDigit_of_lt (hle.trans_lt hsmall)
  · -- (d) zero
    have hcode0 : t.code.toNat = 0 := by rw [hcode, hzero]; exact Nat.zero_mod _
    rw [hascii, byteAt_asciiOf_of_lt _ hd10 hj, hcode0]; exact decDigit_of_lt (by positivity)

end Sys2Proof.Machine
end

section
/-! PROOFS of the statements on the sequencer (spec/43_sequencer.md). -/

open Sys2Proof

namespace Sys2Proof.Machine

/-! ### The invariant of an outstanding request (R181) -/

/-- Settles O19: only `GENERATE` issues a request, after its checks, and then no register changes. -/
theorem stepKeepsRequestInvariant : Obligations.StepKeepsRequestInvariant :=
  fun _ _ hB hR e => hR.step hB e

/-! ### Commands (R185 to R187) -/

/-- Settles O5: the write is performed while `BUSY` = 0 and dropped while `BUSY` = 1. -/
theorem stepPerformsDecodedCommand : Obligations.StepPerformsDecodedCommand := by
  refine fun s s0 w hm => ⟨step_write_busy hm, fun hb => ⟨fun i hd => ?_, fun e hd => ?_⟩⟩
  · rw [step_command hm hb, performCommand, hd]
  · rw [step_command hm hb, performCommand, hd]; rfl

/-- Settles O16: both resets are `resetBlock`. -/
theorem bothResetsAgree : Obligations.BothResetsAgree :=
  ⟨rfl, fun s => ⟨s.resetBlock, rfl, ⟨rfl, rfl, rfl, rfl⟩, rfl, rfl,
    fun idx => (memRead_resetBlock s idx).trans (memRead_reset idx)⟩, fun _ _ hm => step_agent hm⟩

/-- R80: the word of the byte `c` alone has `OP` = 0 and `ARG` = `c`. -/
theorem setWidth_eq_cmdWord (c : Byte) : c.setWidth 32 = (0#8 ++ 0#16 ++ c : Word) := by
  apply BitVec.eq_of_getLsbD_eq; intro i hi
  rw [cmdWord_getLsbD, BitVec.getLsbD_setWidth]
  by_cases h8 : i < 8
  · simp [h8, hi]
  · simp [h8, BitVec.getLsbD_of_ge c i (by omega)]

/-- R83: `NOP` takes no argument. -/
theorem decode_nop_with_arg {c : Byte} (hc : c ≠ 0) : decode (c.setWidth 32) = .error .unusedArg := by
  obtain ⟨hop, hrsv, harg⟩ := fields_of_cmdWord 0#8 c 0#16
  rw [setWidth_eq_cmdWord]
  simp only [decode, hop, hrsv, harg]
  exact if_neg hc

/-- Settles O52: the write of `NOP` takes the host's turn and nothing else, whether it is performed or dropped. -/
theorem nopChangesNothing : Obligations.NopChangesNothing := by
  refine ⟨rfl, fun _ => rfl, fun s s0 hm => ⟨?_, hm.memRead_eq 0x01⟩, fun _ => decode_nop_with_arg⟩
  cases hb : s.busy with
  | true => exact step_write_busy hm hb
  | false => exact (step_command hm hb).trans (performCommand_encode .nop s0)

/-! ### `GENERATE`, phase 1 (R180) -/

/-- R180, R184: with a complete key `GENERATE` discards the key on a failed check, else it issues the request. -/
theorem exec_generate_done {s : State} (hd : s.dec.dstate = .done) :
    (∃ code, code ≠ .ok ∧
      exec .generate s = .next (s.clearCode.clearCounter.keyDiscard.raiseError code 0)) ∨
    exec .generate s = .next s.generated := by
  by_cases hs : s.stepSeconds = 0
  · exact .inl ⟨_, by decide, exec_generate_step hd hs⟩
  cases hl : s.digitsLegal with
  | false => exact .inl ⟨_, by decide, exec_generate_digits hd hs hl⟩
  | true =>
    by_cases hk : s.keyLen = 0
    · exact .inl ⟨_, by decide, exec_generate_empty hd hs hl hk⟩
    · exact .inr (exec_generate_issue hd hs hl hk)

/-- R180, R141: the counter and the seconds remaining of `GENERATE`, as integers. -/
theorem generated_counter {s : State} (hs : s.stepSeconds ≠ 0) :
    s.generated.ctr.toNat = s.time.toNat / s.stepSeconds.toNat ∧
    s.generated.remain.toNat = s.stepSeconds.toNat - s.time.toNat % s.stepSeconds.toNat :=
  ⟨ctr_counterCompute_toNat s.clearCode.clearCounter, remain_counterCompute_toNat s.clearCode.clearCounter hs⟩

/-- Settles O39: an equation of `GENERATE` for each outcome of the checks, and the quotient and rest of `TIME`. -/
theorem generateByCase : Obligations.GenerateByCase := by
  refine ⟨rfl, fun s => ⟨exec_generate_noKey, exec_generate_step, fun hd hs hdig => ?_,
    fun hd hs hd1 hd10 hk => exec_generate_empty hd hs ((digitsLegal_iff s).2 ⟨hd1, hd10⟩) hk,
    fun hd hs hd1 hd10 hk => ?_⟩⟩
  · have hl : s.digitsLegal = false := by rw [Bool.eq_false_iff, ne_eq, digitsLegal_iff]; omega
    exact exec_generate_digits hd hs hl
  · have hl := (digitsLegal_iff s).2 ⟨hd1, hd10⟩
    obtain ⟨hctr, hremain⟩ := generated_counter hs
    exact ⟨s.generated, exec_generate_issue hd hs hl hk, rfl, hctr, hremain, codeGone_clearCode s, rfl⟩

/-! ### Where a request comes from (R180, R183) -/

/-- R180: a command that leaves a request where there was none is `GENERATE` with a key of at least one byte. -/
theorem exec_issues {i : Instr} {s t : State} {q : HashRequest} (e : exec i s = .next t) (hs : s.hreq = none)
    (ht : t.hreq = some q) : i = .generate ∧ s.keyLen ≠ 0 ∧ t = s.generated := by
  have kept {P : Prop} (h : s.hreq = some q) : P := nomatch hs.symm.trans h
  cases exec_cases e with
  | generateIssue _ _ _ hk => exact ⟨rfl, hk, rfl⟩
  | decPack c =>
    obtain ⟨acc, nbits, key, len, e⟩ := packValue_frame s (alphabetValue (upper c))
    rw [e] at ht; exact kept ht
  | reset => cases ht
  | _ => exact kept ht

/-- A request is outstanding after a step only if it was before, or if the step is the host's `GENERATE`. -/
theorem step_request {s t : State} {q : HashRequest} (hB : BlockInv s) (e : step s = .next t)
    (ht : t.hreq = some q) :
    s.hreq = some q ∨
    (s.busy = false ∧ ∃ s0, HostMoves s (.write 0x00 0x30000000) s0 ∧ s0.keyLen ≠ 0 ∧ t = s0.generated) := by
  cases step_cases e with
  | quiet a ts r e => subst e; exact .inl ht
  | store idx w s0 hb hi hm e =>
    subst e
    exact .inl (hm.hreq_eq.symm.trans ((storeReg_frame s0 w _).1.symm.trans ht))
  | command w i s0 hb hm hd e =>
    obtain ⟨rfl, hk, rfl⟩ := exec_issues e (hm.hreq_eq.trans (hB.hreq_eq_none hb)) ht
    have hw : w = 0x30000000 := eq_encode_of_decode hd
    exact .inr ⟨hb, s0, hw ▸ hm, hk, rfl⟩
  | illegal w x s0 hb hm hd e => subst e; exact .inl (hm.hreq_eq.symm.trans ht)
  | answerOk q' s0 hq hm e => subst e; exact nomatch (hashAnswerOk_frame _ s0).1.symm.trans ht
  | answerFail q' s0 hq hm e => subst e; cases ht
  | hardReset s0 hm e => subst e; cases ht

/-- Settles O60: a new request is the host's `GENERATE`, which is performed only while no request is outstanding. -/
theorem requestOnlyByGenerate : Obligations.RequestOnlyByGenerate := by
  intro s t q hB e ht
  obtain hq | ⟨hb, s0, hm, -, -⟩ := step_request hB e ht
  · exact .inl hq
  · exact .inr ⟨hB.hreq_eq_none hb, hb, s0, hm⟩

/-- R31, R181: the key has `KEY_LEN` bytes. -/
theorem keyBytes_length {s : State} (h : s.keyLen.toNat ≤ 64) : s.keyBytes.length = s.keyLen.toNat := by
  rw [State.keyBytes, List.length_take, Vector.length_toList, Nat.min_eq_left h]

/-- Settles O47: the request that `GENERATE` issues has the key of the registers, whose length passed the check. -/
theorem emptyKeyNeverHashed : Obligations.EmptyKeyNeverHashed := by
  intro s t q hB hs e ht
  obtain hq | ⟨-, s0, hm, hk, rfl⟩ := step_request hB e ht
  · exact nomatch hs.symm.trans hq
  obtain ⟨rest, ts, -, rfl⟩ := hm.eq_with
  cases ht
  have hlen : s.keyBytes.length = s.keyLen.toNat := keyBytes_length hB.b_len
  refine ⟨fun hnil => hk (BitVec.eq_of_toNat_eq ?_), rfl, hlen, hlen.trans_le hB.b_len, rfl⟩
  exact hlen.symm.trans (congrArg List.length hnil)

/-! ### While a request is outstanding (R181, R71) -/

/-- Settles O44: while `BUSY` = 1 every host's turn is without effect on the block. -/
theorem busyFreezesRegisters : Obligations.BusyFreezesRegisters := by
  intro s t hb hturn e
  have idle {P : Prop} (h : s.busy = false) : P := absurd (h.symm.trans hb) Bool.false_ne_true
  have other {P : Prop} {a : Turn} {s0 : State} (hm : AgentMoves s a s0) (ha : a ≠ .host) : P := by
    obtain ⟨us, hu, -⟩ := hm
    obtain hn | ⟨ts, ht⟩ := hturn
    · exact nomatch hn.symm.trans hu
    · exact absurd (List.cons.inj (hu.symm.trans ht)).1 ha
  cases step_cases e with
  | quiet a ts r e => subst e; exact ⟨hb, rfl, rfl, fun _ => rfl⟩
  | store _ _ _ h | command _ _ _ h | illegal _ _ _ h => exact idle h
  | answerOk q s0 hq hm | answerFail q s0 hq hm | hardReset s0 hm => exact other hm (by decide)

/-! ### The answers, phase 2 (R182, R183, R190) -/

theorem AgentMoves.hreq_eq {s s0 : State} {a : Turn} (h : AgentMoves s a s0) : s0.hreq = s.hreq := by
  obtain ⟨ts, rfl⟩ := h.eq_with; rfl

/-- R190: an answer's turn without an outstanding request. -/
theorem hashStep_none {s : State} (ok : Bool) (h : s.hreq = none) : hashStep ok s = s := by
  simp only [hashStep, h]

/-- Settles O43: without a request the answer's turn passes, and both resets drop the request. -/
theorem noRequestNoAnswer : Obligations.NoRequestNoAnswer := by
  refine ⟨fun s s0 hq hm => ?_, fun _ _ hm => ⟨_, step_agent hm, rfl⟩, fun _ => ⟨_, rfl, rfl⟩⟩
  obtain hm | hm := hm
  · exact (step_agent hm).trans (congrArg Host.Outcome.next (hashStep_none true (hm.hreq_eq.trans hq)))
  · exact (step_agent hm).trans (congrArg Host.Outcome.next (hashStep_none false (hm.hreq_eq.trans hq)))

/-- R183: the turn of a `FAIL` answer to an outstanding request. -/
theorem step_hashFail {s s0 : State} (hq : s.hreq ≠ none) (hm : AgentMoves s .hashFail s0) :
    step s = .next (hashAnswerFail s0) := by
  obtain ⟨q, hq⟩ := Option.ne_none_iff_exists'.1 hq
  rw [step_agent hm]
  obtain ⟨ts, rfl⟩ := hm.eq_with
  simp only [takeTurn, hashStep, hq]
  rfl

/-- R184: a `FAIL` answer discards the key. -/
theorem keyGone_hashAnswerFail (s : State) : KeyGone (hashAnswerFail s) := keyGone_of_cleared rfl rfl rfl

/-- R182: an `OK` answer ends the request and keeps what the agents hold. -/
theorem hashAnswerOk_idle (g : List Byte) (s : State) :
    (hashAnswerOk g s).busy = false ∧ SameAgents s (hashAnswerOk g s) := by
  by_cases hl : digestLenLegal g.length = true
  · obtain ⟨hb, -, -, -, -, ha⟩ := hashAnswerOk_legal_fields s hl
    exact ⟨hb, ha⟩
  · rw [hashAnswerOk_badLength s hl]; exact ⟨rfl, rfl, rfl, rfl, rfl⟩

/-- R182 to R184: either answer ends the request, discards the key and leaves what the agents hold. -/
theorem step_answer {s s0 : State} (hq : s.hreq ≠ none)
    (hm : AgentMoves s .hashOk s0 ∨ AgentMoves s .hashFail s0) :
    ∃ t, step s = .next t ∧ t.busy = false ∧ t.hreq = none ∧ KeyGone t ∧ SameAgents s0 t := by
  obtain hm | hm := hm
  · obtain ⟨q, hq⟩ := Option.ne_none_iff_exists'.1 hq
    obtain ⟨hreq, -, hkey⟩ := hashAnswerOk_frame (s.hmac q) s0
    obtain ⟨hb, ha⟩ := hashAnswerOk_idle (s.hmac q) s0
    exact ⟨_, step_hashOk hq hm, hb, hreq, hkey, ha⟩
  · exact ⟨_, step_hashFail hq hm, rfl, rfl, keyGone_hashAnswerFail s0, rfl, rfl, rfl, rfl⟩

/-- Settles O41: the equation of the `FAIL` answer, field by field. -/
theorem hashFailAnswer : Obligations.HashFailAnswer := by
  intro s s0 q hq hm
  have hne : s.hreq ≠ none := by simp [hq]
  exact ⟨_, step_hashFail hne hm, keyGone_hashAnswerFail s0, codeGone_clearCode s0, byteAt_replicate_zero 64, rfl⟩

/-- R183: what a `FAIL` answer leaves depends on the inputs and the agents only. -/
theorem hashAnswerFail_congr {s t : State} (hi : SameInputs s t) (ha : SameAgents s t) :
    hashAnswerFail s = hashAnswerFail t := by
  obtain ⟨hctrl, hstep, htimeHi, htimeLo⟩ := hi
  obtain ⟨hhost, hturns, hread, hpoints⟩ := ha
  cases s; cases t
  cases hctrl; cases hstep; cases htimeHi; cases htimeLo; cases hhost; cases hturns; cases hread; cases hpoints
  rfl

/-- Settles O57: the two states agree on all that the state after a `FAIL` answer depends on. -/
theorem failedRequestForgetsKey : Obligations.FailedRequestForgetsKey := by
  rintro s1 s2 hq1 hq2 ⟨ts, ht1⟩ hctrl hstep hhi hlo ⟨hhost, hturns, hread, hpoints⟩
  refine ⟨_, step_hashFail hq1 ⟨ts, ht1, rfl⟩, ?_⟩
  rw [step_hashFail hq2 ⟨ts, hturns.trans ht1, rfl⟩, hashAnswerFail_congr (s := { s1 with turns := ts })
    (t := { s2 with turns := ts }) ⟨hctrl, hstep, hhi, hlo⟩ ⟨hhost, rfl, hread, hpoints⟩]

/-- R182: the digest, its length and the offset after an `OK` answer of a legal length. -/
theorem hashAnswerOk_digest {g : List Byte} (s : State) (hlo : 20 ≤ g.length) (hhi : g.length ≤ 64) :
    (∀ i, byteAt (hashAnswerOk g s).digest i = g.getD i 0) ∧ (hashAnswerOk g s).digestLen.toNat = g.length ∧
    (hashAnswerOk g s).offset.toNat = (g.getD (g.length - 1) 0).toNat % 16 ∧
    (hashAnswerOk g s).trunc.toNat = Reference.truncate g := by
  rw [hashAnswerOk_legal s ((digestLenLegal_iff _).2 ⟨hlo, hhi⟩)]
  refine ⟨byteAt_digestBuffer hhi, Nat.mod_eq_of_lt (by omega), ?_, truncValue_digestBuffer hhi⟩
  rw [← byteAt_digestBuffer hhi]
  exact truncOffset_toNat _ _

/-- Settles O40: the equation of the `OK` answer for each outcome of the check of its length. -/
theorem hashOkAnswer : Obligations.HashOkAnswer := by
  intro s s0 q hq hm g d
  have hstep := step_hashOk hq hm
  obtain ⟨-, -, hkey⟩ := hashAnswerOk_frame g s0
  obtain ⟨ts, rfl⟩ := hm.eq_with
  refine ⟨fun hbad => ⟨_, hstep, hkey, ?_⟩, fun hlo hhi hd1 hd10 => ⟨_, hstep, hkey, ?_⟩⟩
  · have hl : ¬ digestLenLegal g.length = true := by rw [digestLenLegal_iff]; omega
    rw [hashAnswerOk_badLength _ hl]
    exact ⟨byteAt_replicate_zero 64, rfl⟩
  · obtain ⟨hdigest, hlen, hoff, htrunc⟩ := hashAnswerOk_digest { s with turns := ts } hlo hhi
    obtain ⟨hcode, hascii⟩ := hashAnswerOk_code (s := { s with turns := ts })
      ((digitsLegal_iff s).2 ⟨hd1, hd10⟩) hlo hhi
    refine ⟨hdigest, hlen, hoff, htrunc, hcode, hascii, ?_⟩
    rw [hashAnswerOk_legal _ ((digestLenLegal_iff _).2 ⟨hlo, hhi⟩)]
    rfl

/-- R8, R189: a digest of a conforming hash agent at `ALG` = 0 has 20 bytes, fixed by the platform or not. -/
theorem hmac_length_of_conforms {s : State} {q : HashRequest} (h : HashAgentConforms s) (hq : q.alg = 0) :
    (s.hmac q).length = 20 := by
  unfold State.hmac
  split
  · next p hp =>
    have hpq : p.request = q := by simpa using List.find?_some hp
    exact h p (List.mem_of_find?_eq_some hp) (hpq ▸ hq)
  · rw [Config.hmac, if_pos hq, Vector.length_toList]

/-- Settles O42: 20 bytes are a legal length. -/
theorem sha1AnswerGivesCode : Obligations.Sha1AnswerGivesCode := by
  intro s s0 q hc _ hq halg hm
  have hlen := hmac_length_of_conforms hc halg
  have hl := (digestLenLegal_iff (s.hmac q).length).2 (by omega)
  obtain ⟨-, herr, hcv, hremain, -⟩ := hashAnswerOk_legal_fields s0 hl
  obtain ⟨-, hdlen, -⟩ := hashAnswerOk_digest (g := s.hmac q) s0 (by omega) (by omega)
  refine ⟨hlen, _, step_hashOk hq hm, herr, hcv, BitVec.eq_of_toNat_eq (hdlen.trans hlen), hremain.trans ?_⟩
  obtain ⟨ts, rfl⟩ := hm.eq_with
  rfl

/-! ### The key is discarded (R184) -/

/-- Settles O45: every check of phase 1 but the first discards the key, and so does each answer. -/
theorem keyDiscardedOnEveryOutcome : Obligations.KeyDiscardedOnEveryOutcome := by
  refine fun s => ⟨fun hn => ⟨_, exec_generate_noKey hn, rfl, rfl, rfl, rfl, rfl⟩, fun hd => ?_,
    fun _ hq hm => ?_⟩
  · obtain ⟨code, hc, e⟩ | e := exec_generate_done hd
    · exact ⟨_, e, fun _ => keyGone_of_cleared rfl rfl rfl, fun hok => absurd hok hc⟩
    · exact ⟨_, e, fun hne => absurd rfl hne, fun _ => ⟨nofun, rfl⟩⟩
  · obtain ⟨t, e, -, -, hkey, -⟩ := step_answer hq hm
    exact ⟨t, e, hkey⟩

/-! ### `wait.idle` ends (R188) -/

/-- Settles O51: the polls before the answer, the answer, and the poll that reads `BUSY` = 0. -/
theorem waitIdleEndsAfterAnswer : Obligations.WaitIdleEndsAfterAnswer := by
  intro s q n rest a hb hq ha hh ht
  obtain ⟨r, hpolls⟩ := runsTo_polls hb hh ht
  let s1 : State := { s with turns := [a], hostRead := r }
  have hmove : AgentMoves s1 .hashOk { s1 with turns := [] } ∨ AgentMoves s1 .hashFail { s1 with turns := [] } :=
    ha.imp (fun h => ⟨[], congrArg ([·]) h, rfl⟩) fun h => ⟨[], congrArg ([·]) h, rfl⟩
  have hne : s1.hreq ≠ none := fun h => nomatch hq.symm.trans h
  obtain ⟨u, hanswer, hidle, hreq, -, hhost, hturns, -⟩ := step_answer hne hmove
  have hlast := step_poll_idle hidle ⟨rest, hhost.trans hh, .inl ⟨hturns, rfl⟩⟩
  have hrun := (runsTo_succ hanswer).2 ((runsTo_succ hlast).2 (runsTo_zero.2 rfl))
  exact ⟨_, hpolls.trans hrun, hidle, hreq, rfl, rfl, (memRead_status_busy u).trans hidle⟩

/-! ### One window, one code (R191) -/

/-- R182: the code and the result of an `OK` answer are a function of the digest, `DIGITS` and the code shown before. -/
theorem hashAnswerOk_code_congr {s t : State} (g : List Byte) (hctrl : t.ctrl = s.ctrl) (hcode : t.code = s.code)
    (hascii : t.ascii = s.ascii) :
    (hashAnswerOk g s).err = (hashAnswerOk g t).err ∧ (hashAnswerOk g s).code = (hashAnswerOk g t).code ∧
    (hashAnswerOk g s).ascii = (hashAnswerOk g t).ascii := by
  by_cases hl : digestLenLegal g.length = true
  · rw [hashAnswerOk_legal s hl, hashAnswerOk_legal t hl, hctrl]; exact ⟨rfl, rfl, rfl⟩
  · rw [hashAnswerOk_badLength s hl, hashAnswerOk_badLength t hl]; exact ⟨rfl, hcode.symm, hascii.symm⟩

/-- R182: an `OK` answer that records `OK` keeps `REMAIN`. -/
theorem hashAnswerOk_remain {g : List Byte} {s : State} (h : (hashAnswerOk g s).err = .ok) :
    (hashAnswerOk g s).remain = s.remain := by
  by_cases hl : digestLenLegal g.length = true
  · rw [hashAnswerOk_legal s hl]; rfl
  · rw [hashAnswerOk_badLength s hl] at h; cases h

/-- R141: two times in one window with as many seconds remaining are the same time. -/
theorem time_eq_of_remain_eq {s1 s2 : State} (hs : s1.stepSeconds ≠ 0) (hstep : s2.stepSeconds = s1.stepSeconds)
    (hwindow : s1.time.toNat / s1.stepSeconds.toNat = s2.time.toNat / s1.stepSeconds.toNat)
    (h : s1.generated.remain = s2.generated.remain) : s1.time = s2.time := by
  have hpos := stepSeconds_toNat_pos hs
  have h1 := (generated_counter hs).2
  have h2 := (generated_counter (s := s2) (hstep ▸ hs)).2
  have hm1 := Nat.mod_lt s1.time.toNat hpos
  have hm2 := Nat.mod_lt s2.time.toNat hpos
  have hmod : s1.time.toNat % s1.stepSeconds.toNat = s2.time.toNat % s1.stepSeconds.toNat := by
    rw [h, h2, hstep] at h1; omega
  exact BitVec.eq_of_toNat_eq (by
    rw [← Nat.div_add_mod s1.time.toNat s1.stepSeconds.toNat, hwindow, hmod, Nat.div_add_mod])

/-- R182: an `OK` answer straight after `GENERATE`, whose counter is `c`. -/
theorem step_generated_hashOk {s : State} {c : DWord} (hc : c.toNat = s.time.toNat / s.stepSeconds.toNat) :
    step { s.generated with turns := [.hashOk] } =
      .next (hashAnswerOk (s.hmac { alg := s.ctrl.alg, key := s.keyBytes, msg := be8 c })
        { s.generated with turns := [] }) :=
  step_hashOk (s := { s.generated with turns := [.hashOk] }) (generated_hreq hc) ⟨[], rfl, rfl⟩

/-- Settles O49: both requests are the same, so the answers are; the seconds remaining tell the times apart. -/
theorem sameWindowSameCode : Obligations.SameWindowSameCode := by
  intro s1 s2 hd1 hd2 hs hl hk hlen hkey hctrl hstep hpoints hwindow
  have hl2 : s2.digitsLegal = true := by rw [digitsLegal_iff, hctrl, ← digitsLegal_iff]; exact hl
  have hc := (generated_counter hs).1
  have hanswer1 := step_generated_hashOk hc
  have hanswer2 := step_generated_hashOk (s := s2) (hstep ▸ hc.trans hwindow)
  have hmac (q : HashRequest) : s2.hmac q = s1.hmac q := by simp only [State.hmac, hpoints]
  rw [hctrl, hkey, hmac] at hanswer2
  obtain ⟨herr, hcode, hascii⟩ := hashAnswerOk_code_congr
    (s1.hmac { alg := s1.ctrl.alg, key := s1.keyBytes, msg := be8 s1.generated.ctr })
    (s := { s1.generated with turns := [] }) (t := { s2.generated with turns := [] }) hctrl rfl rfl
  refine ⟨_, _, exec_generate_issue hd1 hs hl hk, exec_generate_issue hd2 (hstep ▸ hs) hl2 (hlen ▸ hk),
    _, _, hanswer1, hanswer2, herr, hcode, hascii, fun hok hne heq => hne ?_⟩
  rw [hashAnswerOk_remain hok, hashAnswerOk_remain (herr.symm.trans hok)] at heq
  exact time_eq_of_remain_eq hs hstep hwindow heq

end Sys2Proof.Machine
end

section
/-! PROOFS of the statements on results and failures (spec/60_exceptions.md). -/

open Sys2Proof

namespace Sys2Proof.Machine

/-! ### No result register survives a failing command (R214) -/

/-- R163, R143: a failing `CTR_GEN`, `DIG_EXT` or `GENERATE` has cleared the code, and the counter where it owns it. -/
theorem exec_failed_clears_results {s t : State} {i : Instr} (hi : i = .ctrGen ∨ i = .digExt ∨ i = .generate)
    (e : exec i s = .next t) (herr : t.err ≠ .ok) : CodeGone t ∧ (i ≠ .digExt → t.ctr = 0 ∧ t.remain = 0) := by
  cases exec_cases e with
  | ctrGenOk | digExtOk | generateIssue => exact absurd rfl herr
  | ctrGenZero | generateNoKey | generateBad =>
    exact ⟨codeGone_clearCode s, fun _ => ⟨ctr_clearCounter s, rfl⟩⟩
  | digExtBad => exact ⟨codeGone_clearCode s, fun hne => absurd rfl hne⟩
  | decNotOpen _ hf | decSticky _ hf | decFailed _ hf => obtain rfl | ⟨c, rfl⟩ := hf <;> simp at hi
  | nop | decClr | decSkip | decPad | decPack | decDone | reset => simp at hi

/-- R108: a command that fails in an OPEN decoder leaves no key byte. -/
theorem exec_failed_discards_key {s t : State} {i : Instr} (hi : Instr.FeedsDecoder i) (ho : s.dec.dstate = .opened)
    (e : exec i s = .next t) (herr : t.err ≠ .ok) :
    t.dec.dstate = .error ∧ t.keyLen = 0 ∧ ∀ k, byteAt t.key k = 0 := by
  cases exec_cases e with
  | decNotOpen _ _ hd | decSticky _ _ hd => exact nomatch ho.symm.trans hd
  | decFailed => exact ⟨rfl, rfl, byteAt_replicate_zero 64⟩
  | decSkip | decPad | decPack | decDone => exact absurd rfl herr
  | nop | decClr | ctrGenOk | ctrGenZero | digExtBad | digExtOk | generateNoKey | generateBad | generateIssue | reset =>
    simp [Instr.FeedsDecoder] at hi

/-- R43(f), R181: no code is shown while a request is outstanding. -/
theorem codeGone_of_request {s : State} (hB : BlockInv s) (hR : RequestInv s) (hq : s.hreq ≠ none) : CodeGone s := by
  obtain ⟨q, hq⟩ := Option.ne_none_iff_exists'.1 hq
  obtain ⟨-, hcv, -⟩ := hR q hq
  obtain ⟨hoff, htrunc, hcode, hascii⟩ := hB.f_code hcv
  exact ⟨hcv, hoff, htrunc, hcode, (eq_replicate_zero_iff s.ascii).1 hascii⟩

/-- R163, R143, R182, R183: no code, no counter and no digest is left. -/
def ResultsGone (s : State) : Prop :=
  CodeGone s ∧ s.ctr = 0 ∧ s.remain = 0 ∧ s.digestLen = 0 ∧ ∀ k, byteAt s.digest k = 0

/-- R182: an answer of an illegal length shows no code, where none was shown, and leaves no counter and no digest. -/
theorem resultsGone_hashAnswerOk_failed {g : List Byte} {s : State} (hc : CodeGone s)
    (herr : (hashAnswerOk g s).err ≠ .ok) : ResultsGone (hashAnswerOk g s) := by
  by_cases hl : digestLenLegal g.length = true
  · obtain ⟨-, hok, -⟩ := hashAnswerOk_legal_fields s hl
    exact absurd hok herr
  · rw [hashAnswerOk_badLength s hl]
    exact ⟨hc, ctr_clearCounter s, rfl, rfl, byteAt_replicate_zero 64⟩

/-- R183: an answer `FAIL` leaves no code, no counter and no digest. -/
theorem resultsGone_hashAnswerFail (s : State) : ResultsGone (hashAnswerFail s) :=
  ⟨codeGone_clearCode s, ctr_clearCounter s, rfl, rfl, byteAt_replicate_zero 64⟩

/-- Settles O48: a failing command has cleared what it owns; the answer `OK` of an illegal length leaves the code
registers, which are clear while a request is outstanding. -/
theorem noPartialResults : Obligations.NoPartialResults := by
  refine ⟨fun _ _ _ => exec_failed_clears_results, fun _ _ _ => exec_failed_discards_key,
    fun s s0 t hB hR hq hm e herr => ?_⟩
  obtain hm | hm := hm
  · have hc : CodeGone s0 := by
      obtain ⟨ts, rfl⟩ := hm.eq_with
      exact codeGone_of_request (s := s) hB hR hq
    obtain ⟨q, hq⟩ := Option.ne_none_iff_exists'.1 hq
    rw [step_hashOk hq hm] at e
    cases e
    exact resultsGone_hashAnswerOk_failed hc herr
  · rw [step_hashFail hq hm] at e
    cases e
    exact resultsGone_hashAnswerFail s0

/-! ### Nothing stops the machine (R210, R217) -/

/-- R210: no command faults and none is refused. -/
theorem exec_answers (i : Instr) (s : State) : ∃ t, exec i s = .next t := by
  cases i with
  | nop | decClr | reset => exact ⟨_, rfl⟩
  | decChar c =>
    cases hd : s.dec.dstate with
    | opened => exact ⟨_, exec_decChar_open c hd⟩
    | done => exact ⟨_, exec_decChar_done c hd⟩
    | error => exact ⟨_, exec_decChar_error c hd⟩
  | decEnd =>
    cases hd : s.dec.dstate with
    | opened => exact ⟨_, exec_decEnd_open hd⟩
    | done => exact ⟨_, exec_decEnd_done hd⟩
    | error => exact ⟨_, exec_decEnd_error hd⟩
  | ctrGen =>
    by_cases hs : s.stepSeconds = 0
    · exact ⟨_, exec_ctrGen_zero hs⟩
    · exact ⟨_, exec_ctrGen_ok hs⟩
  | digExt =>
    cases hl : s.digitsLegal with
    | false => exact ⟨_, exec_digExt_digits hl⟩
    | true =>
      cases hg : digestLenLegal s.digestLen.toNat with
      | false => exact ⟨_, exec_digExt_length hl hg⟩
      | true => exact ⟨_, exec_digExt_ok hl hg⟩
  | generate =>
    by_cases hd : s.dec.dstate = .done
    · obtain ⟨code, -, e⟩ | e := exec_generate_done hd
      · exact ⟨_, e⟩
      · exact ⟨_, e⟩
    · exact ⟨_, exec_generate_noKey hd⟩

/-- R187, R83: a word written to `CMD` is performed, legal or not. -/
theorem performCommand_answers (w : Word) (s : State) : ∃ t, performCommand w s = .next t := by
  unfold performCommand
  split
  · next i _ => exact exec_answers i s
  · exact ⟨_, rfl⟩

/-- R65, R71: a host write is dropped, performed or stored. -/
theorem memWrite_answers (idx : RegIdx) (w : Word) (s : State) : ∃ t, memWrite idx w s = .next t := by
  cases hb : s.busy with
  | true => exact ⟨_, memWrite_busy idx w hb⟩
  | false =>
    by_cases hi : idx = 0x00
    · subst hi
      rw [memWrite_cmd w hb]
      exact performCommand_answers w s
    · exact ⟨_, memWrite_reg w hb hi⟩

/-- R67: the host's turn, whatever its next access is. -/
theorem hostStep_answers (s : State) : ∃ t, hostStep s = .next t := by
  unfold hostStep
  split
  · exact ⟨_, rfl⟩
  · exact ⟨_, rfl⟩
  · exact memWrite_answers _ _ _
  · split_ifs
    · exact ⟨_, rfl⟩
    · exact ⟨_, rfl⟩

/-- R7: the turn of any agent. -/
theorem takeTurn_answers (a : Turn) (s : State) : ∃ t, takeTurn a s = .next t := by
  cases a with
  | host => exact hostStep_answers s
  | hashOk | hashFail | hardReset => exact ⟨_, rfl⟩

/-- Settles O13: a step is one agent's turn, and each of them answers. -/
theorem nothingStops : Obligations.NothingStops := by
  refine ⟨fun s => ?_, exec_answers⟩
  simp only [step, nextTurn]
  split
  · exact hostStep_answers s
  · exact takeTurn_answers _ _

/-! ### A failed decode is sticky (R216) -/

/-- R106, R107, R216: after a failed decode `DEC_CHAR` and `DEC_END` record its result again. -/
theorem exec_afterDecodeError {s : State} {i : Instr} (hi : Instr.FeedsDecoder i) (hd : s.dec.dstate = .error) :
    exec i s = .next (s.raiseError s.dec.derr s.dec.dchar) := by
  obtain rfl | ⟨c, rfl⟩ := hi
  · exact exec_decEnd_error hd
  · exact exec_decChar_error c hd

/-- Two adjacent bytes of a word are one field of 16 bits. -/
theorem extractLsb'_two_bytes (w : Word) (start : Nat) :
    w.extractLsb' start 16 = w.extractLsb' (start + 8) 8 ++ w.extractLsb' start 8 :=
  (BitVec.extractLsb'_append_extractLsb'_eq_extractLsb' (x := w) (len₁ := 8) (len₂ := 8) rfl).symm

/-- R24, R28: `STATUS` names the result that `DEC_STATUS` holds, where that result was recorded. -/
theorem status_names_decoder_result {s t : State} (hc : t.err = s.dec.derr) (hch : t.errChar = s.dec.dchar) :
    (t.memRead 0x01).extractLsb' 8 16 = (s.memRead 0x06).extractLsb' 16 16 := by
  obtain ⟨-, -, herr, herrChar⟩ := statusWord_fields t
  obtain ⟨-, -, -, -, hderr, hdchar⟩ := decWord_fields s.dec
  show t.statusWord.extractLsb' 8 16 = s.dec.word.extractLsb' 16 16
  rw [extractLsb'_two_bytes, extractLsb'_two_bytes, herr, herrChar, hderr, hdchar, hc, hch]

/-- R210: recording a result changes no register but `STATUS`. -/
theorem memRead_raiseError {idx : RegIdx} (s : State) (code : ResultCode) (ch : Byte) (h : idx ≠ 0x01) :
    (s.raiseError code ch).memRead idx = s.memRead idx := by
  have hr : Reg.ofIdx idx ≠ .status := fun e => h (ofIdx_inj 0x01 idx e.symm (by decide))
  unfold State.memRead
  cases hreg : Reg.ofIdx idx with
  | status => exact absurd hreg hr
  | _ => rfl

/-- Settles O25: the command records `DERR` and `DCHAR` in `STATUS`, and recording a result changes nothing else. -/
theorem decodeFailureIsSticky : Obligations.DecodeFailureIsSticky :=
  fun s _ hd hi => ⟨_, exec_afterDecodeError hi hd, rfl, status_names_decoder_result rfl rfl,
    fun _ => memRead_raiseError s _ _⟩

end Sys2Proof.Machine
end

section
/-! PROOFS of the statements on the hazards of the command sequence (spec/70_reset_and_hazards.md). -/

open Sys2Proof

namespace Sys2Proof.Machine

/-! ### One key, one code (R244, R247) -/

/-- R107: a decoder whose key was discarded is not DONE. -/
theorem KeyGone.not_done {s : State} (h : KeyGone s) : s.dec.dstate ≠ .done := by
  obtain ⟨hdec, -, -⟩ := h
  rw [hdec]; decide

/-- R180: without a complete key `GENERATE` records `NO_KEY`, shows no code and leaves the request as it is. -/
theorem exec_generate_noKey_result {s : State} (hd : s.dec.dstate ≠ .done) :
    ∃ t, exec .generate s = .next t ∧ t.err = .noKey ∧ t.hreq = s.hreq ∧ t.busy = s.busy ∧ CodeGone t :=
  ⟨_, exec_generate_noKey hd, rfl, rfl, rfl, codeGone_clearCode s⟩

/-- Settles O46: either answer discards the key, so the next `GENERATE` finds none. -/
theorem oneKeyOneCode : Obligations.OneKeyOneCode := by
  intro s s0 hq hm
  obtain ⟨t, hstep, hbusy, hreq, hkey, -⟩ := step_answer hq hm
  obtain ⟨u, hexec, herr, hreq', hbusy', hcode⟩ := exec_generate_noKey_result hkey.not_done
  exact ⟨t, u, hstep, hexec, herr, hreq'.trans hreq, hbusy'.trans hbusy, hcode⟩

/-! ### The two halves of `TIME` (R245) -/

/-- R27: the words that `wr.time` writes are the two halves of the time. -/
theorem time_halves_append (v : DWord) : v.extractLsb' 32 32 ++ v.extractLsb' 0 32 = v :=
  (BitVec.extractLsb'_append_extractLsb'_eq_extractLsb' (x := v) (len₁ := 32) (len₂ := 32) rfl).trans
    BitVec.extractLsb'_eq_self

/-- R65: what a write stores does not depend on the host's further accesses. -/
theorem storeReg_withHost (s : State) (hs : List HostAccess) (w : Word) (r : Reg) :
    { s with host := hs }.storeReg w r = { s.storeReg w r with host := hs } := by
  cases r <;> rfl

/-- R65, R87: the host's write of one register other than `CMD`, while `BUSY` = 0. -/
theorem step_wr {s : State} {idx : RegIdx} (w : Word) (rest : List HostAccess) (hb : s.busy = false)
    (ht : s.turns = []) (hi : idx ≠ 0) : step { s with host := Asm.wr idx w :: rest } =
      .next { s.storeReg w (Reg.ofIdx idx) with host := rest } := by
  rw [← storeReg_withHost]
  exact step_store ⟨rest, rfl, .inl ⟨ht, rfl⟩⟩ hb hi

/-- R65, R66: two writes of registers other than `CMD`, in issue order. -/
theorem runsTo_wr_wr {s : State} {i j : RegIdx} (u w : Word) (rest : List HostAccess) (hb : s.busy = false)
    (ht : s.turns = []) (hi : i ≠ 0) (hj : j ≠ 0) :
    RunsTo 2 { s with host := Asm.wr i u :: Asm.wr j w :: rest }
      { (s.storeReg u (Reg.ofIdx i)).storeReg w (Reg.ofIdx j) with host := rest } := by
  obtain ⟨-, hbusy, -, -, hturns, -⟩ := storeReg_frame s u (Reg.ofIdx i)
  exact (runsTo_succ (step_wr u _ hb ht hi)).2 <|
    (runsTo_succ (step_wr w rest (hbusy.trans hb) (hturns.trans ht) hj)).2 (runsTo_zero.2 rfl)

/-- Settles O58: each write stores in its own half, so both orders reach one state. -/
theorem timeHalvesInEitherOrder : Obligations.TimeHalvesInEitherOrder :=
  fun s v rest hb ht => ⟨{ s with host := rest, timeHi := v.extractLsb' 32 32, timeLo := v.extractLsb' 0 32 },
    runsTo_wr_wr _ _ rest hb ht (by decide) (by decide), runsTo_wr_wr _ _ rest hb ht (by decide) (by decide),
    time_halves_append v, rfl⟩

end Sys2Proof.Machine
end
